-- ==== Sys2Proof/Word.lean ====
section
/-! DEFINITION. The word types of the CHIP-8 core (00_scope.md R4, R7): bytes, 16-bit words, nibbles and 12-bit addresses. -/

namespace Sys2Proof

/-- A general register, a timer or a memory byte (10_state.md R11, R21 to R23). -/
abbrev Byte := BitVec 8

/-- I, PC, a stack entry or an instruction word (10_state.md R14, R15, R18, 30_encoding.md R72). -/
abbrev Word := BitVec 16

/-- A 4-bit field `x`, `y` or `n`, or a key index (00_scope.md R7, 43_host_bridge.md R163). -/
abbrev Nibble := BitVec 4

/-- The 12-bit field `nnn` (00_scope.md R7). -/
abbrev Addr := BitVec 12

end Sys2Proof
end

