-- ==== Sys2Proof/Config.lean ====
section
/-! DEFINITION. The parameters of 00_scope.md R4 and the free values (the draws of R9). A draw is a constant with no
body: nothing in Lean can evaluate it, so a claim that holds, holds for every answer. The font table stands in
Machine/Font.lean. -/

namespace Sys2Proof.Config

/-- MEM_SIZE (00_scope.md R4). -/
def memSize : Nat := 4096
/-- STACK_DEPTH (00_scope.md R4). -/
def stackDepth : Nat := 16
/-- PROGRAM_BASE (00_scope.md R4). -/
def programBase : Nat := 0x200
/-- MAX_ROM_LEN (00_scope.md R4). -/
def maxRomLen : Nat := 3584
/-- FONT_LEN: 16 glyphs of 5 bytes from address 0 (00_scope.md R4). -/
def fontLen : Nat := 80
/-- GLYPH_LEN (00_scope.md R4). -/
def glyphLen : Nat := 5
/-- TICK_HZ (00_scope.md R4): a rate in real time, which no rule of the model reads (70_reset_and_hazards.md R250). -/
def tickHz : Nat := 60

/-- IPS, the instruction rate: an open parameter that no rule reads (00_scope.md R4, log entry 15). -/
opaque ips : Nat

/-- The random byte of the `k`-th draw (00_scope.md R9, 41_load_alu.md R132). Free value, log entry 2. -/
opaque randomByte (k : Nat) : Byte

/-- The host's answer to `is_key_down(key)` at the `k`-th draw, under no law (43_host_bridge.md R163).
Free value, log entry 3. -/
opaque keyIsDown (k : Nat) (key : Nibble) : Bool

end Sys2Proof.Config
end

