-- ==== Sys2Proof/WellFormed.lean ====
section
/-! DEFINITION. What is well formed. Of an instruction: every operand field has exactly the width of 00_scope.md R7 in its
type, and 30_encoding.md R74 makes every value of every field legal, so there is nothing left to check and the check
accepts every term. Of a program image: its length (70_reset_and_hazards.md R230, R231). -/

namespace Sys2Proof

/-- Every value of every operand field is legal (30_encoding.md R74). -/
def Instr.wellFormed (_ : Instr) : Bool := true

/-- The capacity check of an image: at most 3584 bytes, any bytes, odd or empty lengths included
(70_reset_and_hazards.md R231, R232). -/
def imageFits (rom : List Byte) : Bool := decide (rom.length ≤ Config.maxRomLen)

end Sys2Proof
end

