-- ==== Sys2Proof/Decode.lean ====
section
/-! DEFINITION. The decoder, total on any bytes and rejecting by name, and after it the encoder (30_encoding.md R71 to R86).
Fields are pulled out here, once. -/

namespace Sys2Proof

/-- Why bytes are no instruction: the word matches no row of 30_encoding.md R80 (R84), or fewer than two bytes are there. -/
inductive DecodeReject where
  | illegalOpcode (w : Word)
  | truncated
  deriving DecidableEq, Repr

/-- `op = instr[15:12]` (00_scope.md R7). -/
def fieldOp (w : Word) : Nibble := w.extractLsb' 12 4
/-- `x = instr[11:8]` (00_scope.md R7). -/
def fieldX (w : Word) : Nibble := w.extractLsb' 8 4
/-- `y = instr[7:4]` (00_scope.md R7). -/
def fieldY (w : Word) : Nibble := w.extractLsb' 4 4
/-- `n = instr[3:0]` (00_scope.md R7). -/
def fieldN (w : Word) : Nibble := w.extractLsb' 0 4
/-- `kk = instr[7:0]` (00_scope.md R7). -/
def fieldKK (w : Word) : Byte := w.extractLsb' 0 8
/-- `nnn = instr[11:0]` (00_scope.md R7). -/
def fieldNNN (w : Word) : Addr := w.extractLsb' 0 12

/-- Family 0: the whole word selects (30_encoding.md R76, R86). -/
def decodeFamily0 (w : Word) : Except DecodeReject Instr :=
  if w = 0x00E0#16 then .ok .cls
  else if w = 0x00EE#16 then .ok .ret
  else .error (.illegalOpcode w)

/-- Families 5 and 9 need `n = 0` (30_encoding.md R81). -/
def decodeNeedN0 (w : Word) (i : Instr) : Except DecodeReject Instr :=
  if fieldN w = 0x0#4 then .ok i else .error (.illegalOpcode w)

/-- Family 8: `n` selects (30_encoding.md R77). -/
def decodeFamily8 (w : Word) : Except DecodeReject Instr :=
  let x := fieldX w
  let y := fieldY w
  match fieldN w with
  | 0x0#4 => .ok (.ldReg x y)
  | 0x1#4 => .ok (.orReg x y)
  | 0x2#4 => .ok (.andReg x y)
  | 0x3#4 => .ok (.xorReg x y)
  | 0x4#4 => .ok (.addReg x y)
  | 0x5#4 => .ok (.subReg x y)
  | 0x6#4 => .ok (.shr x y)
  | 0x7#4 => .ok (.subnReg x y)
  | 0xE#4 => .ok (.shl x y)
  | _ => .error (.illegalOpcode w)

/-- Family E: `kk` selects (30_encoding.md R78). -/
def decodeFamilyE (w : Word) : Except DecodeReject Instr :=
  match fieldKK w with
  | 0x9E#8 => .ok (.skp (fieldX w))
  | 0xA1#8 => .ok (.sknp (fieldX w))
  | _ => .error (.illegalOpcode w)

/-- Family F: `kk` selects (30_encoding.md R79). -/
def decodeFamilyF (w : Word) : Except DecodeReject Instr :=
  let x := fieldX w
  match fieldKK w with
  | 0x07#8 => .ok (.ldVxDt x)
  | 0x0A#8 => .ok (.ldVxK x)
  | 0x15#8 => .ok (.ldDtVx x)
  | 0x18#8 => .ok (.ldStVx x)
  | 0x1E#8 => .ok (.addI x)
  | 0x29#8 => .ok (.ldF x)
  | 0x33#8 => .ok (.ldB x)
  | 0x55#8 => .ok (.storeRegs x)
  | 0x65#8 => .ok (.loadRegs x)
  | _ => .error (.illegalOpcode w)

/-- Decoding one instruction word: the top nibble selects the family (30_encoding.md R75). -/
def decode (w : Word) : Except DecodeReject Instr :=
  match fieldOp w with
  | 0x0#4 => decodeFamily0 w
  | 0x1#4 => .ok (.jp (fieldNNN w))
  | 0x2#4 => .ok (.call (fieldNNN w))
  | 0x3#4 => .ok (.seImm (fieldX w) (fieldKK w))
  | 0x4#4 => .ok (.sneImm (fieldX w) (fieldKK w))
  | 0x5#4 => decodeNeedN0 w (.seReg (fieldX w) (fieldY w))
  | 0x6#4 => .ok (.ldImm (fieldX w) (fieldKK w))
  | 0x7#4 => .ok (.addImm (fieldX w) (fieldKK w))
  | 0x8#4 => decodeFamily8 w
  | 0x9#4 => decodeNeedN0 w (.sneReg (fieldX w) (fieldY w))
  | 0xA#4 => .ok (.ldI (fieldNNN w))
  | 0xB#4 => .ok (.jpV0 (fieldNNN w))
  | 0xC#4 => .ok (.rnd (fieldX w) (fieldKK w))
  | 0xD#4 => .ok (.drw (fieldX w) (fieldY w) (fieldN w))
  | 0xE#4 => decodeFamilyE w
  | _ => decodeFamilyF w

/-- The byte at the lower address is `instr[15:8]` (20_memory.md R43). -/
def wordOfBytes (hi lo : Byte) : Word := hi ++ lo

/-- The byte stored at the lower address (20_memory.md R43). -/
def highByte (w : Word) : Byte := w.extractLsb' 8 8

/-- The byte stored at the higher address (20_memory.md R43). -/
def lowByte (w : Word) : Byte := w.extractLsb' 0 8

/-- The decoder over bytes: the first two are one big-endian word, the rest is left over (30_encoding.md R71, R72). -/
def decodeBytes : List Byte → Except DecodeReject (Instr × List Byte)
  | hi :: lo :: rest =>
    match decode (wordOfBytes hi lo) with
    | .ok i => .ok (i, rest)
    | .error e => .error e
  | _ => .error .truncated

/-- What the decoder reads from the instruction whose bits are `w`, as spec/opcode_table.json numbers them: one 16-bit
word, laid out big-endian; bits above `nbits` are 0. -/
def decodeTableWord (nbits w : Nat) : Option Instr :=
  let v : Word := BitVec.ofNat 16 (w % 2 ^ nbits)
  match decodeBytes [highByte v, lowByte v] with
  | .ok (i, _) => some i
  | .error _ => none

/-- Format A: `op ## nnn` (30_encoding.md R73). -/
def wordA (op : Nibble) (nnn : Addr) : Word := op ++ nnn
/-- Format XK: `op ## x ## kk` (30_encoding.md R73). -/
def wordXK (op x : Nibble) (kk : Byte) : Word := (op ++ x) ++ kk
/-- Formats XY and XYN: `op ## x ## y ## n` (30_encoding.md R73). -/
def wordXYN (op x y n : Nibble) : Word := (op ++ x) ++ (y ++ n)

/-- The word of an instruction: its row's `match` with the operand fields placed at their bits (30_encoding.md R80, R88). -/
def encode : Instr → Word
  | .cls => 0x00E0#16
  | .ret => 0x00EE#16
  | .jp nnn => wordA 0x1#4 nnn
  | .call nnn => wordA 0x2#4 nnn
  | .seImm x kk => wordXK 0x3#4 x kk
  | .sneImm x kk => wordXK 0x4#4 x kk
  | .seReg x y => wordXYN 0x5#4 x y 0x0#4
  | .ldImm x kk => wordXK 0x6#4 x kk
  | .addImm x kk => wordXK 0x7#4 x kk
  | .ldReg x y => wordXYN 0x8#4 x y 0x0#4
  | .orReg x y => wordXYN 0x8#4 x y 0x1#4
  | .andReg x y => wordXYN 0x8#4 x y 0x2#4
  | .xorReg x y => wordXYN 0x8#4 x y 0x3#4
  | .addReg x y => wordXYN 0x8#4 x y 0x4#4
  | .subReg x y => wordXYN 0x8#4 x y 0x5#4
  | .shr x y => wordXYN 0x8#4 x y 0x6#4
  | .subnReg x y => wordXYN 0x8#4 x y 0x7#4
  | .shl x y => wordXYN 0x8#4 x y 0xE#4
  | .sneReg x y => wordXYN 0x9#4 x y 0x0#4
  | .ldI nnn => wordA 0xA#4 nnn
  | .jpV0 nnn => wordA 0xB#4 nnn
  | .rnd x kk => wordXK 0xC#4 x kk
  | .drw x y n => wordXYN 0xD#4 x y n
  | .skp x => wordXK 0xE#4 x 0x9E#8
  | .sknp x => wordXK 0xE#4 x 0xA1#8
  | .ldVxDt x => wordXK 0xF#4 x 0x07#8
  | .ldVxK x => wordXK 0xF#4 x 0x0A#8
  | .ldDtVx x => wordXK 0xF#4 x 0x15#8
  | .ldStVx x => wordXK 0xF#4 x 0x18#8
  | .addI x => wordXK 0xF#4 x 0x1E#8
  | .ldF x => wordXK 0xF#4 x 0x29#8
  | .ldB x => wordXK 0xF#4 x 0x33#8
  | .storeRegs x => wordXK 0xF#4 x 0x55#8
  | .loadRegs x => wordXK 0xF#4 x 0x65#8

/-- One row of the opcode map: a word `w` is of the row iff `w AND mask = pattern` (30_encoding.md R80). -/
structure OpcodeRow where
  pattern : Word
  mask : Word
  deriving DecidableEq, Repr

/-- Does the word match the row (30_encoding.md R80)? -/
def rowMatches (r : OpcodeRow) (w : Word) : Bool := w &&& r.mask == r.pattern

/-- The row an instruction belongs to (30_encoding.md R80). -/
def Instr.row : Instr → OpcodeRow
  | .cls => ⟨0x00E0#16, 0xFFFF#16⟩
  | .ret => ⟨0x00EE#16, 0xFFFF#16⟩
  | .jp _ => ⟨0x1000#16, 0xF000#16⟩
  | .call _ => ⟨0x2000#16, 0xF000#16⟩
  | .seImm _ _ => ⟨0x3000#16, 0xF000#16⟩
  | .sneImm _ _ => ⟨0x4000#16, 0xF000#16⟩
  | .seReg _ _ => ⟨0x5000#16, 0xF00F#16⟩
  | .ldImm _ _ => ⟨0x6000#16, 0xF000#16⟩
  | .addImm _ _ => ⟨0x7000#16, 0xF000#16⟩
  | .ldReg _ _ => ⟨0x8000#16, 0xF00F#16⟩
  | .orReg _ _ => ⟨0x8001#16, 0xF00F#16⟩
  | .andReg _ _ => ⟨0x8002#16, 0xF00F#16⟩
  | .xorReg _ _ => ⟨0x8003#16, 0xF00F#16⟩
  | .addReg _ _ => ⟨0x8004#16, 0xF00F#16⟩
  | .subReg _ _ => ⟨0x8005#16, 0xF00F#16⟩
  | .shr _ _ => ⟨0x8006#16, 0xF00F#16⟩
  | .subnReg _ _ => ⟨0x8007#16, 0xF00F#16⟩
  | .shl _ _ => ⟨0x800E#16, 0xF00F#16⟩
  | .sneReg _ _ => ⟨0x9000#16, 0xF00F#16⟩
  | .ldI _ => ⟨0xA000#16, 0xF000#16⟩
  | .jpV0 _ => ⟨0xB000#16, 0xF000#16⟩
  | .rnd _ _ => ⟨0xC000#16, 0xF000#16⟩
  | .drw _ _ _ => ⟨0xD000#16, 0xF000#16⟩
  | .skp _ => ⟨0xE09E#16, 0xF0FF#16⟩
  | .sknp _ => ⟨0xE0A1#16, 0xF0FF#16⟩
  | .ldVxDt _ => ⟨0xF007#16, 0xF0FF#16⟩
  | .ldVxK _ => ⟨0xF00A#16, 0xF0FF#16⟩
  | .ldDtVx _ => ⟨0xF015#16, 0xF0FF#16⟩
  | .ldStVx _ => ⟨0xF018#16, 0xF0FF#16⟩
  | .addI _ => ⟨0xF01E#16, 0xF0FF#16⟩
  | .ldF _ => ⟨0xF029#16, 0xF0FF#16⟩
  | .ldB _ => ⟨0xF033#16, 0xF0FF#16⟩
  | .storeRegs _ => ⟨0xF055#16, 0xF0FF#16⟩
  | .loadRegs _ => ⟨0xF065#16, 0xF0FF#16⟩

/-- The 34 rows of the opcode map, in the order of 30_encoding.md R80. -/
def opcodeRows : List OpcodeRow :=
  [Instr.row .cls, Instr.row .ret, Instr.row (.jp 0), Instr.row (.call 0), Instr.row (.seImm 0 0), Instr.row (.sneImm 0 0),
   Instr.row (.seReg 0 0), Instr.row (.ldImm 0 0), Instr.row (.addImm 0 0), Instr.row (.ldReg 0 0), Instr.row (.orReg 0 0),
   Instr.row (.andReg 0 0), Instr.row (.xorReg 0 0), Instr.row (.addReg 0 0), Instr.row (.subReg 0 0), Instr.row (.shr 0 0),
   Instr.row (.subnReg 0 0)]
  ++ [Instr.row (.shl 0 0), Instr.row (.sneReg 0 0), Instr.row (.ldI 0), Instr.row (.jpV0 0), Instr.row (.rnd 0 0),
   Instr.row (.drw 0 0 0), Instr.row (.skp 0), Instr.row (.sknp 0), Instr.row (.ldVxDt 0), Instr.row (.ldVxK 0),
   Instr.row (.ldDtVx 0), Instr.row (.ldStVx 0), Instr.row (.addI 0), Instr.row (.ldF 0), Instr.row (.ldB 0),
   Instr.row (.storeRegs 0), Instr.row (.loadRegs 0)]

end Sys2Proof
end

