-- ==== Sys2Proof/Machine/State.lean ====
section
/-! DEFINITION. The state of the machine as plain data, its stop reasons, and the state after reset (10_state.md). -/

namespace Sys2Proof.Machine

/-- Memory as (address, byte) cells in canonical form: addresses strictly rising, every one below 4096, no cell equal to
what an unlisted address reads as (Machine/Memory.lean says what that is, and `Memory.wf` says the form). -/
abbrev Memory := List Host.Cell

/-- The reference display's framebuffer `FB[r][c]`: 32 rows of 64 pixels, `true` for set (43_host_bridge.md R165). -/
abbrev Display := Vector (Vector Bool 64) 32

/-- STATUS (10_state.md R24). -/
inductive Status where
  | run
  | halted
  deriving DecidableEq, Repr

/-- The run-time error causes an engine step can raise (60_exceptions.md R200). CapacityExceeded is no run-time cause:
it is a fault of the load (`Fault.capacityExceeded`). -/
inductive Cause where
  | outOfRange
  | stackOverflow
  | stackUnderflow
  | illegalOpcode
  deriving DecidableEq, Repr

/-- Whose turn a step is (00_scope.md R8): the engine, the 60 Hz tick, or the host delivering a key event or asserting
Reset with a program image. -/
inductive Turn where
  | engine
  | tick
  | key (k : Nibble)
  | reset (rom : List Byte)
  deriving DecidableEq, Repr

/-- The architectural state of 10_state.md R10, the reference display of R29, and three fields of the model's own
(`keyPort`, `draws`, `agenda`: inputs and free values). -/
structure State where
  /-- V[0..15]; V[15] is VF (R11, R12). -/
  v : Vector Byte 16
  /-- I (R14). -/
  i : Word
  /-- PC (R15). -/
  pc : Word
  /-- STACK[0..15] (R18). -/
  stack : Vector Word 16
  /-- SP, 0..16 in 5 bits (R19). -/
  sp : BitVec 5
  /-- DT (R21). -/
  dt : Byte
  /-- ST (R22). -/
  st : Byte
  /-- MEM[0..4095] (R23). -/
  mem : Memory
  /-- STATUS (R24). -/
  status : Status
  /-- ERR_CAUSE (R25). -/
  errCause : BitVec 3
  /-- ERR_INSTR (R25). -/
  errInstr : Word
  /-- ERR_PC (R25). -/
  errPc : Word
  /-- ERR_ADDR (R25). -/
  errAddr : BitVec 17
  /-- FB, host state beside the core (R29, 43_host_bridge.md R165). -/
  fb : Display
  /-- The model's own: the key event being delivered in this very step (43_host_bridge.md R164), log entry 4. -/
  keyPort : Option Nibble
  /-- The model's own: which draw comes next (00_scope.md R9), log entries 2 and 3. -/
  draws : Nat
  /-- The model's own: whose turn the coming steps are, empty meaning the engine's (00_scope.md R8), log entry 1. -/
  agenda : List Turn
  deriving DecidableEq, Repr

/-- Why a step stops with no next state. -/
inductive Fault where
  /-- Raised by a turn `reset rom` with `rom` longer than 3584 bytes: no machine exists afterwards
  (60_exceptions.md R201). Safe: the spec defines no step after it. -/
  | capacityExceeded
  /-- Raised by the engine's turn while STATUS is HALTED: the engine has no enabled step, ever (60_exceptions.md R209).
  Safe: ticks and reset go on through turns of their own. No instruction raises it. -/
  | halted
  deriving DecidableEq, Repr

/-- Why an instruction has no meaning. -/
inductive Refusal where
  /-- Raised by an arm of `exec` for an instruction with no meaning yet. No arm raises it. Safe. -/
  | notModelled (mnemonic : String)
  deriving DecidableEq, Repr

/-- The state after Reset with the empty program image: every value as in 10_state.md R30 (log entries 5, 7 and 13), the
model's own fields at the values of log entries 1 to 4. -/
def State.reset : State where
  v := Vector.replicate 16 0#8
  i := 0#16
  pc := 0x200#16
  stack := Vector.replicate 16 0#16
  sp := 0#5
  dt := 0#8
  st := 0#8
  mem := []
  status := .run
  errCause := 0#3
  errInstr := 0#16
  errPc := 0#16
  errAddr := 0#17
  fb := Vector.replicate 32 (Vector.replicate 64 false)
  keyPort := none
  draws := 0
  agenda := []

end Sys2Proof.Machine
end

