-- ==== Sys2Proof/Machine/Display.lean ====
section
/-! DEFINITION. The reference display on the host's side of the bridge (43_host_bridge.md R161, R162, R165). Coordinates are
reduced per pixel, so a sprite continues at the opposite edge (log entry 5). -/

namespace Sys2Proof.Machine

/-- The pixel at row `r mod 32`, column `c mod 64` (43_host_bridge.md R165). -/
def Display.pixel (d : Display) (r c : Nat) : Bool :=
  (d[r % 32]'(Nat.mod_lt r (by decide)))[c % 64]'(Nat.mod_lt c (by decide))

/-- The pixel XORed with 1 (43_host_bridge.md R165). -/
def Display.flip (d : Display) (r c : Nat) : Display :=
  d.set (r % 32)
    ((d[r % 32]'(Nat.mod_lt r (by decide))).set (c % 64) (!Display.pixel d r c) (Nat.mod_lt c (by decide)))
    (Nat.mod_lt r (by decide))

/-- The first `n` columns of one sprite row at row `y`, column `x` on: bit 7 of the byte is the leftmost pixel; the flag
records a pixel that went from set to unset (43_host_bridge.md R165). -/
def Display.drawBits (x y : Nat) (row : Byte) : Nat → Display × Bool → Display × Bool
  | 0, acc => acc
  | c + 1, acc =>
    let before := Display.drawBits x y row c acc
    if row.getLsbD (7 - c) then
      (Display.flip before.1 y (x + c), before.2 || Display.pixel before.1 y (x + c))
    else before

/-- The rows of a sprite, downward from row `y` (43_host_bridge.md R165). -/
def Display.drawRows (x : Nat) : Nat → List Byte → Display × Bool → Display × Bool
  | _, [], acc => acc
  | y, row :: rows, acc => Display.drawRows x (y + 1) rows (Display.drawBits x y row 8 acc)

/-- `draw_sprite(x, y, rows) -> collided` (43_host_bridge.md R162, R165). -/
def Display.drawSprite (d : Display) (x y : Byte) (rows : List Byte) : Display × Bool :=
  Display.drawRows x.toNat y.toNat rows (d, false)

/-- `clear_display()`: every pixel unset (43_host_bridge.md R161). -/
def Display.cleared : Display := Vector.replicate 32 (Vector.replicate 64 false)

end Sys2Proof.Machine
end

