-- ==== Sys2Proof/Machine/Font.lean ====
section
/-! DEFINITION. FONT_BYTES, the 80 bytes at 0x000-0x04F (70_reset_and_hazards.md R233). The values are marked there as
general knowledge, not in the source: log entry 6. No instruction's meaning depends on them. -/

namespace Sys2Proof

/-- Glyphs 0 to 7 (70_reset_and_hazards.md R233). -/
def Config.fontLow : List Byte :=
  [0xF0, 0x90, 0x90, 0x90, 0xF0, 0x20, 0x60, 0x20, 0x20, 0x70, 0xF0, 0x10, 0xF0, 0x80, 0xF0, 0xF0, 0x10, 0xF0, 0x10, 0xF0,
   0x90, 0x90, 0xF0, 0x10, 0x10, 0xF0, 0x80, 0xF0, 0x10, 0xF0, 0xF0, 0x80, 0xF0, 0x90, 0xF0, 0xF0, 0x10, 0x20, 0x40, 0x40]

/-- Glyphs 8 to F (70_reset_and_hazards.md R233). -/
def Config.fontHigh : List Byte :=
  [0xF0, 0x90, 0xF0, 0x90, 0xF0, 0xF0, 0x90, 0xF0, 0x10, 0xF0, 0xF0, 0x90, 0xF0, 0x90, 0x90, 0xE0, 0x90, 0xE0, 0x90, 0xE0,
   0xF0, 0x80, 0x80, 0x80, 0xF0, 0xE0, 0x90, 0x90, 0x90, 0xE0, 0xF0, 0x80, 0xF0, 0x80, 0xF0, 0xF0, 0x80, 0xF0, 0x80, 0x80]

/-- FONT_BYTES (70_reset_and_hazards.md R233). -/
def Config.fontBytes : List Byte := Config.fontLow ++ Config.fontHigh

end Sys2Proof
end

