-- ==== Sys2Proof/Machine/Memory.lean ====
section
/-! DEFINITION. Reading and writing one byte of the cell list, and the canonical form (20_memory.md R40 to R46). The range
check stands in Machine/Ops.lean; here an address is any natural number. -/

namespace Sys2Proof.Machine

/-- What an address that no cell lists reads as: the reset contents, the font below 0x050 and 0 elsewhere
(10_state.md R30, 70_reset_and_hazards.md R234). -/
def Memory.unlisted (a : Nat) : Byte := Config.fontBytes.getD a 0#8

/-- The byte at an address (20_memory.md R45). -/
def Memory.read : Memory → Nat → Byte
  | [], a => Memory.unlisted a
  | (k, b) :: rest, a => if k = a then b else Memory.read rest a

/-- Every cell of the address taken out. -/
def Memory.erase : Memory → Nat → Memory
  | [], _ => []
  | (k, b) :: rest, a => if k = a then Memory.erase rest a else (k, b) :: Memory.erase rest a

/-- A cell put in its place in the rising order. -/
def Memory.insert : Memory → Nat → Byte → Memory
  | [], a, b => [(a, b)]
  | (k, c) :: rest, a, b =>
    if a < k then (a, b) :: (k, c) :: rest
    else if a = k then (a, b) :: rest
    else (k, c) :: Memory.insert rest a b

/-- A write of one byte (20_memory.md R46); writing what an unlisted address reads as takes the cell out, so equal
memories are equal lists. -/
def Memory.write (m : Memory) (a : Nat) (b : Byte) : Memory :=
  if b = Memory.unlisted a then Memory.erase m a else Memory.insert m a b

/-- The canonical form of the cells from address `lo` on. -/
def Memory.wfFrom : Nat → Memory → Bool
  | _, [] => true
  | lo, (k, b) :: rest =>
    decide (lo ≤ k) && decide (k < Config.memSize) && decide (b ≠ Memory.unlisted k) && Memory.wfFrom (k + 1) rest

/-- The canonical form: addresses strictly rising and below 4096, no cell equal to what an unlisted address reads as. -/
def Memory.wf (m : Memory) : Bool := Memory.wfFrom 0 m

/-- `n` bytes from `base` on, ascending (20_memory.md R44, R49). -/
def Memory.readRun (m : Memory) (base : Nat) : Nat → List Byte
  | 0 => []
  | n + 1 => m.read base :: Memory.readRun m (base + 1) n

/-- Bytes written from `base` on, ascending (20_memory.md R44, R49). -/
def Memory.writeRun (m : Memory) (base : Nat) : List Byte → Memory
  | [] => m
  | b :: bs => Memory.writeRun (m.write base b) (base + 1) bs

end Sys2Proof.Machine
end

