-- ==== Sys2Proof/Machine/Ops.lean ====
section
/-! DEFINITION. The named operations over registers, memory, the stack and the fault record. Registers are read and
written, and an error is raised, only through these. -/

namespace Sys2Proof.Machine

/-- `V[x]` (10_state.md R11). -/
def State.getV (s : State) (x : Nibble) : Byte := s.v[x.toNat]'x.isLt

/-- `V[x] <- b` (10_state.md R11). -/
def State.setV (s : State) (x : Nibble) (b : Byte) : State := { s with v := s.v.set x.toNat b x.isLt }

/-- `PC <- a`. -/
def State.setPc (s : State) (a : Word) : State := { s with pc := a }

/-- `I <- a`. -/
def State.setI (s : State) (a : Word) : State := { s with i := a }

/-- `DT <- b`. -/
def State.setDt (s : State) (b : Byte) : State := { s with dt := b }

/-- `ST <- b`. -/
def State.setSt (s : State) (b : Byte) : State := { s with st := b }

/-- The memory as a whole replaced. -/
def State.setMem (s : State) (m : Memory) : State := { s with mem := m }

/-- The framebuffer as a whole replaced (host state). -/
def State.setFb (s : State) (d : Display) : State := { s with fb := d }

/-- The key event on the port is consumed (43_host_bridge.md R164). -/
def State.takeKey (s : State) : State := { s with keyPort := none }

/-- One draw is used up (00_scope.md R9). -/
def State.useDraw (s : State) : State := { s with draws := s.draws + 1 }

/-- The agenda replaced. -/
def State.setAgenda (s : State) (ts : List Turn) : State := { s with agenda := ts }

/-- `PC <- (PC + 2) mod 65536` (30_encoding.md R82). -/
def State.advance (s : State) : State := s.setPc (s.pc + 2#16)

/-- The skip convention: PC + 4 when the condition holds, else PC + 2 (40_control_transfer.md R104). -/
def State.skipIf (s : State) (c : Bool) : State := s.setPc (s.pc + if c then 4#16 else 2#16)

/-- SOUND_ACTIVE, the level `ST != 0` (44_timers.md R184). -/
def State.soundActive (s : State) : Bool := s.st != 0#8

/-- The codes of ERR_CAUSE (60_exceptions.md R200). -/
def causeCode : Cause → BitVec 3
  | .outOfRange => 2#3
  | .stackOverflow => 3#3
  | .stackUnderflow => 4#3
  | .illegalOpcode => 5#3

/-- `raise <Cause>(info)`, the only trap entry (60_exceptions.md R206): from the state at the start of the step, the fault
record is written and STATUS becomes HALTED; nothing else changes, PC included. There is no vector and no return
(R209): the only way back to RUN is Reset, `hostReset` in Machine/Agents.lean. -/
def State.raise (s : State) (c : Cause) (instr : Word) (addr : Nat) : State :=
  { s with
    status := .halted
    errCause := causeCode c
    errInstr := instr
    errPc := s.pc
    errAddr := BitVec.ofNat 17 addr }

/-- `CheckRange(base, count)`: the lowest address at or above 4096 that would be accessed, if any
(20_memory.md R50). Addresses are never wrapped (R47). -/
def rangeError (base count : Nat) : Option Nat :=
  if 0 < count ∧ Config.memSize ≤ base + count - 1 then some (max base Config.memSize) else none

/-- The whole range is checked before any effect: either OutOfRange is raised from `s`, or the effect `t` happens
(20_memory.md R50). -/
def guardRange (s : State) (instr : Word) (base count : Nat) (t : State) : Host.Outcome State Fault Refusal :=
  match rangeError base count with
  | some a => .next (s.raise .outOfRange instr a)
  | none => .next t

/-- `Push(v)` on a stack that is not full (10_state.md R20). -/
def State.push (s : State) (w : Word) : State :=
  { s with stack := s.stack.setIfInBounds s.sp.toNat w, sp := s.sp + 1#5 }

/-- The entry `Pop()` answers, `STACK[SP - 1]` (10_state.md R20). -/
def State.top (s : State) : Word := s.stack[s.sp.toNat - 1]?.getD 0#16

/-- `Pop()` on a stack that is not empty; the entry keeps its value (10_state.md R20). -/
def State.drop (s : State) : State := { s with sp := s.sp - 1#5 }

/-- The registers from number `k` on, `n` of them, ascending (42_index_memory.md R145). -/
def State.regRun (s : State) (k : Nat) : Nat → List Byte
  | 0 => []
  | n + 1 => s.getV (BitVec.ofNat 4 k) :: s.regRun (k + 1) n

/-- Bytes written to the registers from number `k` on, ascending (42_index_memory.md R146). -/
def State.loadRun (s : State) (k : Nat) : List Byte → State
  | [] => s
  | b :: bs => (s.setV (BitVec.ofNat 4 k) b).loadRun (k + 1) bs

/-- A 16-bit word stored big-endian at an address (20_memory.md R43). -/
def Memory.writeWord (m : Memory) (a : Nat) (w : Word) : Memory := m.writeRun a [highByte w, lowByte w]

/-- The big-endian word at an address (20_memory.md R43). -/
def Memory.readWord (m : Memory) (a : Nat) : Word := wordOfBytes (m.read a) (m.read (a + 1))

end Sys2Proof.Machine
end

