-- ==== Sys2Proof/Machine/Operands.lean ====
section
/-! DEFINITION. The operand forms (30_encoding.md R74, 42_index_memory.md R140): `Vx` and `Vy` are `State.getV`, `kk` and `n`
are used as they stand; here are the others. -/

namespace Sys2Proof.Machine

/-- `zext_16(nnn)` (30_encoding.md R74). -/
def addrOperand (nnn : Addr) : Word := nnn.setWidth 16

/-- `zext_16(V[x])` (40_control_transfer.md R108, 42_index_memory.md R142). -/
def State.getVWord (s : State) (x : Nibble) : Word := (s.getV x).setWidth 16

/-- The low nibble `V[x][3:0]` (42_index_memory.md R143, 43_host_bridge.md R172). -/
def State.getVNibble (s : State) (x : Nibble) : Nibble := (s.getV x).setWidth 4

/-- The base of every indirect access, `I` as an unbounded address (20_memory.md R47, 42_index_memory.md R140). -/
def State.base (s : State) : Nat := s.i.toNat

/-- `x` as a count: registers `V[0]..V[x]`, `x + 1` of them (30_encoding.md R74). -/
def regCount (x : Nibble) : Nat := x.toNat + 1

/-- The address of glyph `g`, `5 * g` (42_index_memory.md R143). -/
def glyphAddress (g : Nibble) : Word := BitVec.ofNat 16 (Config.glyphLen * g.toNat)

/-- The decimal digits of a byte, hundreds first, one a byte (42_index_memory.md R144). -/
def bcdDigits (b : Byte) : List Byte :=
  [BitVec.ofNat 8 (b.toNat / 100), BitVec.ofNat 8 (b.toNat / 10 % 10), BitVec.ofNat 8 (b.toNat % 10)]

end Sys2Proof.Machine
end

