-- ==== Sys2Proof/Machine/Flags.lean ====
section
/-! DEFINITION. The flag computations (10_state.md R12) and the order of result and flag (R13). -/

namespace Sys2Proof.Machine

/-- VF is always exactly 0x00 or 0x01 as a flag (10_state.md R12). -/
def flagByte (f : Bool) : Byte := if f then 1#8 else 0#8

/-- Carry: the 9-bit sum passes 255 (41_load_alu.md R127). -/
def carryOut (a b : Byte) : Bool := decide (255 < a.toNat + b.toNat)

/-- Not borrow of `a - b`: the minuend is greater than or equal to the subtrahend (41_load_alu.md R128, R130). -/
def notBorrow (a b : Byte) : Bool := decide (b.toNat ≤ a.toNat)

/-- The bit a right shift moves out (41_load_alu.md R129). -/
def lowBitOut (a : Byte) : Bool := a.getLsbD 0

/-- The bit a left shift moves out (41_load_alu.md R131). -/
def highBitOut (a : Byte) : Bool := a.getLsbD 7

/-- The result to `V[x]`, then the flag to `V[15]`, then the advance (10_state.md R13, log entry 16). -/
def State.putResultFlag (s : State) (x : Nibble) (r : Byte) (f : Bool) : State :=
  ((s.setV x r).setV 15#4 (flagByte f)).advance

/-- The result to `V[x]` and the advance, no flag (41_load_alu.md R120). -/
def State.putResult (s : State) (x : Nibble) (r : Byte) : State := (s.setV x r).advance

end Sys2Proof.Machine
end

