-- ==== Sys2Proof/Machine/Alu.lean ====
section
/-! DEFINITION. Register load, immediate add, register-register ALU, random (41_load_alu.md). All read their operands from
`s`, the state before any write (10_state.md R13). -/

namespace Sys2Proof.Machine

/-- LD Vx, kk (41_load_alu.md R121). -/
def execLdImm (x : Nibble) (kk : Byte) (s : State) : Host.Outcome State Fault Refusal := .next (s.putResult x kk)

/-- ADD Vx, kk (41_load_alu.md R122): no flag. -/
def execAddImm (x : Nibble) (kk : Byte) (s : State) : Host.Outcome State Fault Refusal :=
  .next (s.putResult x (s.getV x + kk))

/-- LD Vx, Vy (41_load_alu.md R123). -/
def execLdReg (x y : Nibble) (s : State) : Host.Outcome State Fault Refusal := .next (s.putResult x (s.getV y))

/-- OR Vx, Vy (41_load_alu.md R124): VF unchanged (log entry 17). -/
def execOrReg (x y : Nibble) (s : State) : Host.Outcome State Fault Refusal :=
  .next (s.putResult x (s.getV x ||| s.getV y))

/-- AND Vx, Vy (41_load_alu.md R125): VF unchanged (log entry 17). -/
def execAndReg (x y : Nibble) (s : State) : Host.Outcome State Fault Refusal :=
  .next (s.putResult x (s.getV x &&& s.getV y))

/-- XOR Vx, Vy (41_load_alu.md R126): VF unchanged (log entry 17). -/
def execXorReg (x y : Nibble) (s : State) : Host.Outcome State Fault Refusal :=
  .next (s.putResult x (s.getV x ^^^ s.getV y))

/-- ADD Vx, Vy (41_load_alu.md R127). -/
def execAddReg (x y : Nibble) (s : State) : Host.Outcome State Fault Refusal :=
  .next (s.putResultFlag x (s.getV x + s.getV y) (carryOut (s.getV x) (s.getV y)))

/-- SUB Vx, Vy (41_load_alu.md R128). -/
def execSubReg (x y : Nibble) (s : State) : Host.Outcome State Fault Refusal :=
  .next (s.putResultFlag x (s.getV x - s.getV y) (notBorrow (s.getV x) (s.getV y)))

/-- SHR Vx (41_load_alu.md R129): `V[x]` in place, `y` ignored. -/
def execShr (x : Nibble) (s : State) : Host.Outcome State Fault Refusal :=
  .next (s.putResultFlag x (s.getV x >>> 1) (lowBitOut (s.getV x)))

/-- SUBN Vx, Vy (41_load_alu.md R130). -/
def execSubnReg (x y : Nibble) (s : State) : Host.Outcome State Fault Refusal :=
  .next (s.putResultFlag x (s.getV y - s.getV x) (notBorrow (s.getV y) (s.getV x)))

/-- SHL Vx (41_load_alu.md R131): `V[x]` in place, `y` ignored. -/
def execShl (x : Nibble) (s : State) : Host.Outcome State Fault Refusal :=
  .next (s.putResultFlag x (s.getV x <<< 1) (highBitOut (s.getV x)))

/-- RND Vx, kk (41_load_alu.md R132): the next random byte, a free value (log entry 2), under the mask. -/
def execRnd (x : Nibble) (kk : Byte) (s : State) : Host.Outcome State Fault Refusal :=
  .next (s.useDraw.putResult x (Config.randomByte s.draws &&& kk))

end Sys2Proof.Machine
end

