-- ==== Sys2Proof/Machine/Control.lean ====
section
/-! DEFINITION. Control transfer: RET, JP, CALL, the register and immediate skips, JP V0 (40_control_transfer.md). -/

namespace Sys2Proof.Machine

/-- RET (40_control_transfer.md R101): StackUnderflow when SP = 0, else PC is the popped address + 2. -/
def execRet (s : State) : Host.Outcome State Fault Refusal :=
  if s.sp = 0#5 then .next (s.raise .stackUnderflow (encode .ret) 0)
  else .next (s.drop.setPc (s.top + 2#16))

/-- JP nnn (40_control_transfer.md R102). -/
def execJp (nnn : Addr) (s : State) : Host.Outcome State Fault Refusal := .next (s.setPc (addrOperand nnn))

/-- CALL nnn (40_control_transfer.md R103): StackOverflow when SP = 16 (17 to 31 never occur, log entry 8), else the address
of this CALL is pushed. -/
def execCall (nnn : Addr) (s : State) : Host.Outcome State Fault Refusal :=
  if Config.stackDepth ≤ s.sp.toNat then .next (s.raise .stackOverflow (encode (.call nnn)) 0)
  else .next ((s.push s.pc).setPc (addrOperand nnn))

/-- SE Vx, kk (40_control_transfer.md R104). -/
def execSeImm (x : Nibble) (kk : Byte) (s : State) : Host.Outcome State Fault Refusal :=
  .next (s.skipIf (s.getV x == kk))

/-- SNE Vx, kk (40_control_transfer.md R105). -/
def execSneImm (x : Nibble) (kk : Byte) (s : State) : Host.Outcome State Fault Refusal :=
  .next (s.skipIf (s.getV x != kk))

/-- SE Vx, Vy (40_control_transfer.md R106). -/
def execSeReg (x y : Nibble) (s : State) : Host.Outcome State Fault Refusal :=
  .next (s.skipIf (s.getV x == s.getV y))

/-- SNE Vx, Vy (40_control_transfer.md R107). -/
def execSneReg (x y : Nibble) (s : State) : Host.Outcome State Fault Refusal :=
  .next (s.skipIf (s.getV x != s.getV y))

/-- JP V0, nnn (40_control_transfer.md R108): the sum is modulo 65536, not masked to 12 bits. -/
def execJpV0 (nnn : Addr) (s : State) : Host.Outcome State Fault Refusal :=
  .next (s.setPc (addrOperand nnn + s.getVWord 0#4))

end Sys2Proof.Machine
end

