-- ==== Sys2Proof/Machine/HostBridge.lean ====
section
/-! DEFINITION. The instructions that call the Host Bridge (43_host_bridge.md), with the reference display of R165. -/

namespace Sys2Proof.Machine

/-- CLS (43_host_bridge.md R170). -/
def execCls (s : State) : Host.Outcome State Fault Refusal := .next (s.setFb Display.cleared).advance

/-- What DRW does when its range is good: the sprite is drawn and VF takes the collision (43_host_bridge.md R171). -/
def State.drawn (s : State) (x y : Nibble) (rows : List Byte) : State :=
  let r := s.fb.drawSprite (s.getV x) (s.getV y) rows
  ((s.setFb r.1).setV 15#4 (flagByte r.2)).advance

/-- DRW Vx, Vy, n (43_host_bridge.md R171): with `n = 0` no memory is read and VF becomes 0. -/
def execDrw (x y n : Nibble) (s : State) : Host.Outcome State Fault Refusal :=
  guardRange s (encode (.drw x y n)) s.base n.toNat (s.drawn x y (s.mem.readRun s.base n.toNat))

/-- The host's answer to `is_key_down` for the low nibble of `V[x]`: a free value (43_host_bridge.md R163, R172). -/
def State.keyAnswer (s : State) (x : Nibble) : Bool := Config.keyIsDown s.draws (s.getVNibble x)

/-- SKP Vx (43_host_bridge.md R172). -/
def execSkp (x : Nibble) (s : State) : Host.Outcome State Fault Refusal := .next (s.useDraw.skipIf (s.keyAnswer x))

/-- SKNP Vx (43_host_bridge.md R173). -/
def execSknp (x : Nibble) (s : State) : Host.Outcome State Fault Refusal := .next (s.useDraw.skipIf (!s.keyAnswer x))

/-- LD Vx, K (43_host_bridge.md R174): with a key event on the port it is consumed and stored; with none the engine waits
and nothing changes (the stuttering form (b) of that rule, log entry 4). -/
def execLdVxK (x : Nibble) (s : State) : Host.Outcome State Fault Refusal :=
  match s.keyPort with
  | some k => .next (s.takeKey.putResult x (k.setWidth 8))
  | none => .next s

end Sys2Proof.Machine
end

