-- ==== Sys2Proof/Machine/IndexMem.lean ====
section
/-! DEFINITION. The index register and the memory instructions (42_index_memory.md). `I` is unchanged by the three that
access memory (R140, log entry 17). -/

namespace Sys2Proof.Machine

/-- LD I, nnn (42_index_memory.md R141). -/
def execLdI (nnn : Addr) (s : State) : Host.Outcome State Fault Refusal := .next (s.setI (addrOperand nnn)).advance

/-- ADD I, Vx (42_index_memory.md R142): modulo 65536, VF unchanged (log entry 17). -/
def execAddI (x : Nibble) (s : State) : Host.Outcome State Fault Refusal :=
  .next (s.setI (s.i + s.getVWord x)).advance

/-- LD F, Vx (42_index_memory.md R143). -/
def execLdF (x : Nibble) (s : State) : Host.Outcome State Fault Refusal :=
  .next (s.setI (glyphAddress (s.getVNibble x))).advance

/-- LD B, Vx (42_index_memory.md R144). -/
def execLdB (x : Nibble) (s : State) : Host.Outcome State Fault Refusal :=
  guardRange s (encode (.ldB x)) s.base 3 (s.setMem (s.mem.writeRun s.base (bcdDigits (s.getV x)))).advance

/-- LD [I], Vx (42_index_memory.md R145). -/
def execStoreRegs (x : Nibble) (s : State) : Host.Outcome State Fault Refusal :=
  guardRange s (encode (.storeRegs x)) s.base (regCount x)
    (s.setMem (s.mem.writeRun s.base (s.regRun 0 (regCount x)))).advance

/-- LD Vx, [I] (42_index_memory.md R146). -/
def execLoadRegs (x : Nibble) (s : State) : Host.Outcome State Fault Refusal :=
  guardRange s (encode (.loadRegs x)) s.base (regCount x)
    (s.loadRun 0 (s.mem.readRun s.base (regCount x))).advance

end Sys2Proof.Machine
end

