-- ==== Sys2Proof/Machine/Timers.lean ====
section
/-! DEFINITION. The Timer Tick, an agent of its own, and the three timer instructions (44_timers.md). -/

namespace Sys2Proof.Machine

/-- One tick of a countdown timer: minus 1 if non-zero, floor at 0 (44_timers.md R181). -/
def tickDown (b : Byte) : Byte := if b = 0#8 then 0#8 else b - 1#8

/-- The Timer Tick: DT and ST, and nothing else; it fires whatever STATUS is (44_timers.md R181, R188). -/
def State.tick (s : State) : State := { s with dt := tickDown s.dt, st := tickDown s.st }

/-- LD Vx, DT (44_timers.md R185). -/
def execLdVxDt (x : Nibble) (s : State) : Host.Outcome State Fault Refusal := .next (s.putResult x s.dt)

/-- LD DT, Vx (44_timers.md R186). -/
def execLdDtVx (x : Nibble) (s : State) : Host.Outcome State Fault Refusal := .next (s.setDt (s.getV x)).advance

/-- LD ST, Vx (44_timers.md R187). -/
def execLdStVx (x : Nibble) (s : State) : Host.Outcome State Fault Refusal := .next (s.setSt (s.getV x)).advance

end Sys2Proof.Machine
end

