-- ==== Sys2Proof/Machine/Agents.lean ====
section
/-! DEFINITION. The engine's whole step, the host's key delivery and Reset, and the turn that chooses among them
(00_scope.md R8, 30_encoding.md R70, 60_exceptions.md R220, 70_reset_and_hazards.md R230). -/

namespace Sys2Proof.Machine

/-- The word at PC, if both its bytes are in range (30_encoding.md R71). -/
def State.fetch (s : State) : Option Word :=
  match rangeError s.pc.toNat 2 with
  | some _ => none
  | none => some (s.mem.readWord s.pc.toNat)

/-- One step of the Execution Engine (30_encoding.md R70). Fetch raises OutOfRange with no instruction word (R71), decode
raises IllegalOpcode (R84), then the instruction runs: the priority of 60_exceptions.md R208. A halted engine has no
enabled step (60_exceptions.md R209). -/
def engineStep (s : State) : Host.Outcome State Fault Refusal :=
  match s.status with
  | .halted => .fault .halted
  | .run =>
    match s.fetch with
    | none => .next (s.raise .outOfRange 0#16 (max s.pc.toNat Config.memSize))
    | some w =>
      match decode w with
      | .error _ => .next (s.raise .illegalOpcode w 0)
      | .ok i => exec i s

/-- Is this instruction the key wait `Fx0A`? -/
def isKeyWait : Instr → Bool
  | .ldVxK _ => true
  | _ => false

/-- Is a key wait pending: STATUS is RUN and the word at PC is an `Fx0A` (10_state.md R28, 43_host_bridge.md R164)? -/
def State.keyWaitPending (s : State) : Bool :=
  match s.status, s.fetch with
  | .run, some w =>
    match decode w with
    | .ok i => isKeyWait i
    | .error _ => false
  | _, _ => false

/-- The host delivers a key event: it completes a pending `Fx0A`, and is not seen by the core otherwise
(43_host_bridge.md R164, 60_exceptions.md R212). -/
def deliverKey (k : Nibble) (s : State) : Host.Outcome State Fault Refusal :=
  if s.keyWaitPending then engineStep { s with keyPort := some k } else .next s

/-- The machine with a program image that fits: the reset state with the image from 0x200 on
(70_reset_and_hazards.md R230, R231, R234). -/
def State.loaded (rom : List Byte) : State :=
  State.reset.setMem (Memory.writeRun [] Config.programBase rom)

/-- `Reset(rom)`: the capacity check comes first; too large an image yields no machine (70_reset_and_hazards.md R230, R232,
60_exceptions.md R201). The coming turns and the draw counter, which are the outside's, are kept (log entry 14). -/
def hostReset (rom : List Byte) (s : State) : Host.Outcome State Fault Refusal :=
  if imageFits rom then .next { State.loaded rom with agenda := s.agenda, draws := s.draws }
  else .fault .capacityExceeded

/-- One turn of one agent (00_scope.md R8). -/
def takeTurn (t : Turn) (s : State) : Host.Outcome State Fault Refusal :=
  match t with
  | .engine => engineStep s
  | .tick => .next s.tick
  | .key k => deliverKey k s
  | .reset rom => hostReset rom s

/-- Where the next instruction is fetched: PC where both bytes are in range, else the reset entry point
(used by `State.withFetchWord` only, log entry 12). -/
def State.fetchSlot (s : State) : Word := if s.fetch.isSome then s.pc else 0x200#16

/-- A word placed where the engine fetches next, with the engine enabled and its turn come (log entry 12). -/
def State.placeWord (s : State) (w : Word) : State :=
  { s with
    pc := s.fetchSlot
    mem := s.mem.writeWord s.fetchSlot.toNat w
    status := .run
    agenda := [] }

end Sys2Proof.Machine
end

