-- ==== Sys2Proof/Machine/Step.lean ====
section
/-! DEFINITION. One step of the machine: the turn at the head of the agenda, or the engine's when the agenda is empty. -/

namespace Sys2Proof.Machine

/-- One atomic step of one agent (00_scope.md R8, log entry 1). -/
def step (s : State) : Host.Outcome State Fault Refusal :=
  match s.agenda with
  | [] => engineStep s
  | t :: rest => takeTurn t (s.setAgenda rest)

/-- `s` with the instruction whose table bits are `w` stored where `step` fetches next; bits above `nbits` are 0. -/
def State.withFetchWord (s : State) (nbits w : Nat) : State := s.placeWord (BitVec.ofNat 16 (w % 2 ^ nbits))

end Sys2Proof.Machine
end

