-- ==== Sys2Proof/Safety.lean ====
section
/-! DEFINITION. The terms claims are made in: what stays the same between two states, what raising an error leaves, the
invariant of the machine, what a sprite covers, and the end of a run. -/

namespace Sys2Proof

/-- The instructions that 10_state.md R31 lists as writers of V. -/
def Instr.writesV : Instr → Bool
  | .ldImm _ _ | .addImm _ _ | .ldReg _ _ | .orReg _ _ | .andReg _ _ | .xorReg _ _
  | .addReg _ _ | .subReg _ _ | .shr _ _ | .subnReg _ _ | .shl _ _ | .rnd _ _
  | .drw _ _ _ | .ldVxDt _ | .ldVxK _ | .loadRegs _ => true
  | .cls | .ret | .jp _ | .call _ | .seImm _ _ | .sneImm _ _
  | .seReg _ _ | .sneReg _ _ | .ldI _ | .jpV0 _ | .skp _ | .sknp _
  | .ldDtVx _ | .ldStVx _ | .addI _ | .ldF _ | .ldB _ | .storeRegs _ => false

end Sys2Proof

namespace Sys2Proof.Machine

/-! ### Frames: what stays the same from `s` to `t` -/

/-- Every general register but those of `p` keeps its value. -/
def SameRegs (p : Nibble → Prop) (s t : State) : Prop := ∀ r : Nibble, ¬ p r → t.getV r = s.getV r

/-- Every byte of memory but those at the addresses of `p` reads as before. -/
def SameMem (p : Nat → Prop) (s t : State) : Prop := ∀ a : Nat, ¬ p a → t.mem.read a = s.mem.read a

/-- STACK and SP. -/
def SameStack (s t : State) : Prop := t.stack = s.stack ∧ t.sp = s.sp

/-- DT and ST. -/
def SameTimers (s t : State) : Prop := t.dt = s.dt ∧ t.st = s.st

/-- STATUS and the fault record. -/
def SameRecord (s t : State) : Prop :=
  t.status = s.status ∧ t.errCause = s.errCause ∧ t.errInstr = s.errInstr ∧ t.errPc = s.errPc ∧ t.errAddr = s.errAddr

/-- The display, and the model's own inputs: the key port, the draw counter, the agenda. -/
def SameOutside (s t : State) : Prop :=
  t.fb = s.fb ∧ t.keyPort = s.keyPort ∧ t.draws = s.draws ∧ t.agenda = s.agenda

/-- Everything but the general registers, I and PC. -/
def SameBeyondRegs (s t : State) : Prop :=
  SameMem (fun _ => False) s t ∧ SameStack s t ∧ SameTimers s t ∧ SameRecord s t ∧ SameOutside s t

/-- Everything but PC. -/
def OnlyPcChanged (s t : State) : Prop := SameRegs (fun _ => False) s t ∧ t.i = s.i ∧ SameBeyondRegs s t

/-- Everything but PC and the registers of `p`. -/
def OnlyRegsChanged (p : Nibble → Prop) (s t : State) : Prop := SameRegs p s t ∧ t.i = s.i ∧ SameBeyondRegs s t

/-- Everything but PC and I. -/
def OnlyIChanged (s t : State) : Prop := SameRegs (fun _ => False) s t ∧ SameBeyondRegs s t

/-- The ordinary advance, in integers: PC + 2 modulo 65536 (30_encoding.md R82). -/
def AdvancedBy2 (s t : State) : Prop := t.pc.toNat = (s.pc.toNat + 2) % 65536

/-! ### Raising an error -/

/-- `t` is `s` halted with this fault record, everything else as it was (60_exceptions.md R206). -/
def Raised (s t : State) (code instr addr : Nat) : Prop :=
  t.status = .halted ∧ t.errCause.toNat = code ∧ t.errInstr.toNat = instr ∧ t.errPc = s.pc ∧ t.errAddr.toNat = addr ∧
  t.v = s.v ∧ t.i = s.i ∧ t.pc = s.pc ∧ t.stack = s.stack ∧ t.sp = s.sp ∧ t.dt = s.dt ∧ t.st = s.st ∧ t.mem = s.mem ∧
  t.fb = s.fb ∧ t.keyPort = s.keyPort ∧ t.draws = s.draws ∧ t.agenda = s.agenda

/-! ### The invariant -/

/-- SP is a depth 0..16 (10_state.md R19). -/
abbrev State.SpOk (s : State) : Prop := s.sp.toNat ≤ 16

/-- PC is at most the largest value a step can write (10_state.md R17). -/
abbrev State.PcOk (s : State) : Prop := s.pc.toNat ≤ 0x10FE

/-- Every stack entry is the address of a CALL that was fetched in range (40_control_transfer.md R101). -/
abbrev State.StackOk (s : State) : Prop := ∀ k : Fin 16, s.stack[k].toNat ≤ 0xFFE

/-- No key event is latched between steps (43_host_bridge.md R166). -/
abbrev State.PortOk (s : State) : Prop := s.keyPort = none

/-- While running, the fault record is clear; halted, it holds one run-time cause (never 1, 6 or 7), ERR_PC is PC, and
ERR_ADDR is an address beyond memory for OutOfRange and 0 otherwise (10_state.md R24, R25). -/
abbrev State.RecordOk (s : State) : Prop :=
  (s.status = .run → s.errCause = 0#3 ∧ s.errInstr = 0#16 ∧ s.errPc = 0#16 ∧ s.errAddr = 0#17) ∧
  (s.status = .halted → s.errPc = s.pc ∧
    ((s.errCause = 2#3 ∧ 4096 ≤ s.errAddr.toNat) ∨
      ((s.errCause = 3#3 ∨ s.errCause = 4#3 ∨ s.errCause = 5#3) ∧ s.errAddr = 0#17)))

/-- The invariant of the machine. -/
abbrev State.Inv (s : State) : Prop :=
  s.mem.wf = true ∧ s.SpOk ∧ s.PcOk ∧ s.StackOk ∧ s.PortOk ∧ s.RecordOk

/-! ### Sprites -/

/-- Does a sprite of `n` rows read from address `base`, drawn at column `x` and row `y`, have a set bit at the pixel of
row `r`, column `c`? Both coordinates wrap around (43_host_bridge.md R165). -/
def spriteCovers (m : Memory) (base n x y r c : Nat) : Bool :=
  let dr := (r + 32 - y % 32) % 32
  let dc := (c + 64 - x % 64) % 64
  decide (dr < n) && decide (dc < 8) && (m.read (base + dr)).getLsbD (7 - dc)

/-! ### The end of a run -/

/-- The program has finished: STATUS is RUN and the word at PC is a jump to PC. It says nothing of the timers, of the
sound output, or of what the host does next (70_reset_and_hazards.md R246). -/
def State.AtEnd (s : State) : Prop :=
  s.status = .run ∧ s.fetch = some (0x1000#16 ||| s.pc)

end Sys2Proof.Machine
end

