-- ==== Sys2Proof/Certificates/Slice0/Obligations.lean ====
section
/-! DEFINITION. The statements for the provers. Each docstring names the rules of spec/ it follows, and, where a clause
rests on a decision of 92_eei_decisions.md or on the model's own choice, that decision or log entry. -/

open Sys2Proof Sys2Proof.Machine

/-! ### Encoding -/

/-- Decoding the word of an instruction gives the instruction back, every operand at every value (30_encoding.md R72 to R81,
R88). -/
def Obligations.DecodeOfEncodeIsTheInstruction : Prop :=
  ∀ i : Instr, i.wellFormed = true → decode (encode i) = .ok i

/-- The other direction: no two words decode to one instruction, so no bit of a legal word is dropped (the `y` of SHR and
SHL included). -/
def Obligations.DecodedWordIsTheEncoding : Prop :=
  ∀ (w : Word) (i : Instr), decode w = .ok i → encode i = w

/-- 30_encoding.md R80: a word is instruction `r` iff it matches row `r`; no word matches two rows; a word that matches
none is illegal. That the map is exact (family 0, `5xyN`, `9xyN`) is decisions D2, D3, and the order of the names in family 8
is R77's general knowledge (log entry 20). -/
def Obligations.DecodeFollowsTheOpcodeMap : Prop :=
  opcodeRows.length = 34 ∧
  (∀ (w : Word) (r : OpcodeRow), r ∈ opcodeRows → (rowMatches r w = true ↔ ∃ i, decode w = .ok i ∧ i.row = r)) ∧
  (∀ (w : Word), (∀ r ∈ opcodeRows, rowMatches r w = false) ↔ decode w = .error (.illegalOpcode w)) ∧
  opcodeRows.Pairwise (fun r r' => ∀ w : Word, ¬ (rowMatches r w = true ∧ rowMatches r' w = true))

/-- Words written out from the encodings decode to the instructions they stand for, and their illegal neighbours do not
(95_test_vectors.md 2.1, 2.2 and 2.7). That 8127 is SUBN and 812E is SHL rests on the order of names that R77 takes from
general knowledge (log entry 20, PRESUMED); that 01E0 is illegal is decision D2 and that 5121 is illegal is decision D3 (log
entry 20). -/
def Obligations.SampleWordsDecode : Prop :=
  decode 0x00E0#16 = .ok .cls ∧ decode 0x00EE#16 = .ok .ret ∧ decode 0x1234#16 = .ok (.jp 0x234#12) ∧
  decode 0x4308#16 = .ok (.sneImm 3#4 8#8) ∧ decode 0x8127#16 = .ok (.subnReg 1#4 2#4) ∧
  decode 0x812E#16 = .ok (.shl 1#4 2#4) ∧ decode 0xD125#16 = .ok (.drw 1#4 2#4 5#4) ∧
  decode 0xE4A1#16 = .ok (.sknp 4#4) ∧ decode 0xF265#16 = .ok (.loadRegs 2#4) ∧
  decode 0x01E0#16 = .error (.illegalOpcode 0x01E0#16) ∧ decode 0x5121#16 = .error (.illegalOpcode 0x5121#16) ∧
  decode 0x8128#16 = .error (.illegalOpcode 0x8128#16) ∧ decode 0xF185#16 = .error (.illegalOpcode 0xF185#16)

/-! ### The step -/

/-- 30_encoding.md R70, R71: on the engine's turn of a running machine, when the big-endian word at PC (PC at most 0xFFE)
decodes to `i`, the step is `exec i` at that state; the turn itself is taken off the agenda and nothing else surrounds it. -/
def Obligations.StepRunsTheDecodedInstruction : Prop :=
  ∀ (s : State) (i : Instr), s.status = .run → s.pc.toNat ≤ 0xFFE →
    decode (s.mem.read s.pc.toNat ++ s.mem.read (s.pc.toNat + 1)) = .ok i → i.wellFormed = true →
    (s.agenda = [] → step s = exec i s) ∧
    (∀ rest, s.agenda = .engine :: rest → step s = exec i (s.setAgenda rest))

/-- 30_encoding.md R71 with the halt of 60_exceptions.md R206 (decision D16): a fetch that would read at 4096 or above
raises OutOfRange with address max(PC, 4096) and no instruction word, on either form of the engine's turn (log entry 1). -/
def Obligations.FetchBeyondMemoryHalts : Prop :=
  ∀ s : State, s.status = .run → 4096 ≤ s.pc.toNat + 1 →
    (s.agenda = [] → ∃ t, step s = .next t ∧ Raised s t 2 0 (max s.pc.toNat 4096)) ∧
    (∀ rest, s.agenda = .engine :: rest →
      ∃ t, step s = .next t ∧ Raised (s.setAgenda rest) t 2 0 (max s.pc.toNat 4096))

/-- 30_encoding.md R84, 60_exceptions.md R205, R206 (decision D16): a word that matches no row halts the engine with
IllegalOpcode, the raw word and the PC, PC unchanged, on either form of the engine's turn (log entry 1). Which words match
no row rests on decisions D2 and D3 (log entry 20). -/
def Obligations.IllegalWordHalts : Prop :=
  ∀ s : State, s.status = .run → s.pc.toNat ≤ 0xFFE →
    (∀ r ∈ opcodeRows, rowMatches r (s.mem.read s.pc.toNat ++ s.mem.read (s.pc.toNat + 1)) = false) →
    (s.agenda = [] → ∃ t, step s = .next t ∧
      Raised s t 5 ((s.mem.read s.pc.toNat).toNat * 256 + (s.mem.read (s.pc.toNat + 1)).toNat) 0) ∧
    (∀ rest, s.agenda = .engine :: rest → ∃ t, step s = .next t ∧
      Raised (s.setAgenda rest) t 5 ((s.mem.read s.pc.toNat).toNat * 256 + (s.mem.read (s.pc.toNat + 1)).toNat) 0)

/-- 60_exceptions.md R209 (decision D17): a halted engine has no step; the model's engine turn stops by name (log
entry 9). -/
def Obligations.HaltedEngineHasNoStep : Prop :=
  ∀ s : State, s.status = .halted → (s.agenda = [] ∨ ∃ rest, s.agenda = .engine :: rest) → step s = .fault .halted

/-- 60_exceptions.md R209, 44_timers.md R188 (decision D17): from a halted state a step leaves everything but DT, ST and
the agenda as it is, STATUS and the fault record included, unless it is a Reset. -/
def Obligations.OnlyResetLeavesHalted : Prop :=
  ∀ s t : State, s.status = .halted → step s = .next t →
    (∃ rom rest, s.agenda = .reset rom :: rest) ∨ t = { s with dt := t.dt, st := t.st, agenda := s.agenda.tail }

/-- 60_exceptions.md R207 (decision D16): traps are precise. When a step takes a running machine to HALTED, the halted
state is the state before the step but for STATUS and the fault record (and the turn taken off the agenda). -/
def Obligations.TrapsArePrecise : Prop :=
  ∀ s t : State, s.status = .run → step s = .next t → t.status = .halted →
    t = { s with
      status := .halted, errCause := t.errCause, errInstr := t.errInstr, errPc := s.pc, errAddr := t.errAddr,
      agenda := s.agenda.tail }

/-- 60_exceptions.md R221, R208: which instruction raises what in its execute phase, complete. For SP above 16, which never
occurs, log entry 8. -/
def Obligations.ExecuteErrorsAreComplete : Prop :=
  ∀ (i : Instr) (s t : State), s.status = .run → exec i s = .next t →
    (t.status = .halted ↔
      (i = .ret ∧ s.sp = 0#5) ∨ ((∃ nnn, i = .call nnn) ∧ 16 ≤ s.sp.toNat) ∨
      (∃ x y n, i = .drw x y n ∧ 0 < n.toNat ∧ 4096 ≤ s.i.toNat + n.toNat - 1) ∨
      (∃ x, i = .ldB x ∧ 4096 ≤ s.i.toNat + 2) ∨
      (∃ x, (i = .storeRegs x ∨ i = .loadRegs x) ∧ 4096 ≤ s.i.toNat + x.toNat)) ∧
    (t.status = .halted →
      (i = .ret → t.errCause = 4#3) ∧ ((∃ nnn, i = .call nnn) → t.errCause = 3#3) ∧
      (i ≠ .ret → (∀ nnn, i ≠ .call nnn) → t.errCause = 2#3))

/-- 10_state.md R25, 60_exceptions.md R206 (decision D16, log entry 11): when the decoded instruction raises, ERR_INSTR is
the word that was fetched. -/
def Obligations.ErrInstrIsTheFetchedWord : Prop :=
  ∀ (s t : State) (w : Word) (i : Instr), s.status = .run → s.fetch = some w → decode w = .ok i →
    exec i s = .next t → t.status = .halted → t.errInstr = w

/-- No instruction ends in a fault or a refusal; a step stops only on the engine's turn of a halted machine and on a Reset
whose image does not fit (60_exceptions.md R201, R209; log entries 9 and 10). -/
def Obligations.StepStopsOnlyAsTheSpecSays : Prop :=
  (∀ (i : Instr) (s : State), ∃ t, exec i s = .next t) ∧
  (∀ s : State, (∃ t, step s = .next t) ∨
    (step s = .fault .halted ∧ s.status = .halted) ∨
    (step s = .fault .capacityExceeded ∧ ∃ rom rest, s.agenda = .reset rom :: rest ∧ 3584 < rom.length))

/-- The invariant holds at reset. -/
def Obligations.ResetMeetsTheInvariant : Prop := State.reset.Inv

/-- Every step keeps the invariant: memory canonical, SP in 0..16 (10_state.md R19), PC at most 0x10FE (R17), stack entries
at most 0xFFE (40_control_transfer.md R101), no key event latched (43_host_bridge.md R166), the fault record coherent with
STATUS (R24, R25). -/
def Obligations.EveryStepKeepsTheInvariant : Prop :=
  ∀ s t : State, s.Inv → step s = .next t → t.Inv

/-- 10_state.md R31: who writes what, over all instructions. -/
def Obligations.WhoWritesWhat : Prop :=
  ∀ (i : Instr) (s t : State), exec i s = .next t →
    (t.v ≠ s.v → i.writesV = true) ∧
    (t.i ≠ s.i → (∃ nnn, i = .ldI nnn) ∨ (∃ x, i = .addI x ∨ i = .ldF x)) ∧
    (t.dt ≠ s.dt → ∃ x, i = .ldDtVx x) ∧
    (t.st ≠ s.st → ∃ x, i = .ldStVx x) ∧
    (t.stack ≠ s.stack → ∃ nnn, i = .call nnn) ∧
    (t.sp ≠ s.sp → i = .ret ∨ ∃ nnn, i = .call nnn) ∧
    (t.fb ≠ s.fb → i = .cls ∨ ∃ x y n, i = .drw x y n) ∧
    (∀ a : Nat, t.mem.read a ≠ s.mem.read a → ∃ x, i = .ldB x ∨ i = .storeRegs x) ∧
    (t.keyPort ≠ s.keyPort → ∃ x, i = .ldVxK x) ∧
    (t.draws ≠ s.draws → ∃ x, i = .skp x ∨ i = .sknp x ∨ ∃ kk, i = .rnd x kk) ∧
    t.agenda = s.agenda

/-- 10_state.md R12: VF changes only through the six flag instructions and through instructions whose destination is VF. -/
def Obligations.WhoWritesVF : Prop :=
  ∀ (i : Instr) (s t : State), exec i s = .next t → t.getV 15#4 ≠ s.getV 15#4 →
    (∃ x y, i = .addReg x y ∨ i = .subReg x y ∨ i = .shr x y ∨ i = .subnReg x y ∨ i = .shl x y) ∨
    (∃ x y n, i = .drw x y n) ∨
    (∃ kk, i = .ldImm 15#4 kk ∨ i = .addImm 15#4 kk ∨ i = .rnd 15#4 kk) ∨
    (∃ y, i = .ldReg 15#4 y ∨ i = .orReg 15#4 y ∨ i = .andReg 15#4 y ∨ i = .xorReg 15#4 y) ∨
    i = .ldVxDt 15#4 ∨ i = .ldVxK 15#4 ∨ i = .loadRegs 15#4

/-! ### The other agents -/

/-- 44_timers.md R181: a tick decrements DT and ST by 1 if non-zero, floor at 0 (subtraction of natural numbers stops at 0),
and touches nothing else. That it does so whatever STATUS is, HALTED included, is decision D17 (R188); that it is a turn taken
off the agenda is log entry 1. `k` ticks take `k` off, so a timer at `v` reaches 0 after exactly `v` ticks,
and the sound is on for the ticks in between. -/
def Obligations.TickDecrementsBothTimers : Prop :=
  (∀ (s : State) (rest : List Turn), s.agenda = .tick :: rest →
    ∃ t, step s = .next t ∧ t.dt.toNat = s.dt.toNat - 1 ∧ t.st.toNat = s.st.toNat - 1 ∧
      t = { s with dt := t.dt, st := t.st, agenda := rest }) ∧
  (∀ (s : State) (k : Nat), (State.tick^[k] s).dt.toNat = s.dt.toNat - k ∧ (State.tick^[k] s).st.toNat = s.st.toNat - k ∧
    ((State.tick^[k] s).soundActive = true ↔ k < s.st.toNat))

/-- 44_timers.md R180 to R183: a tick and an instruction that moves no timer commute. -/
def Obligations.TickCommutesWithOtherInstructions : Prop :=
  ∀ (i : Instr) (s t : State), (∀ x, i ≠ .ldVxDt x ∧ i ≠ .ldDtVx x ∧ i ≠ .ldStVx x) →
    exec i s = .next t → exec i s.tick = .next t.tick

/-- 44_timers.md R184 (decision D21): SOUND_ACTIVE is on after Fx18 exactly when the value written is not 0, and after a
tick exactly when ST was above 1. -/
def Obligations.SoundFollowsTheSoundTimer : Prop :=
  (∀ (s : State) (x : Nibble), ∃ t, exec (.ldStVx x) s = .next t ∧ (t.soundActive = true ↔ s.getV x ≠ 0#8)) ∧
  (∀ s : State, s.tick.soundActive = true ↔ 1 < s.st.toNat)

/-- 43_host_bridge.md R164, R174 (decision D15): a key event delivered while an Fx0A is pending completes it: the key,
zero-extended, is in V[x], PC is past it, the event is consumed. -/
def Obligations.KeyEventCompletesTheWait : Prop :=
  ∀ (s : State) (k x : Nibble) (rest : List Turn) (w : Word), s.agenda = .key k :: rest → s.status = .run →
    s.fetch = some w → decode w = .ok (.ldVxK x) →
    ∃ t, step s = .next t ∧ (t.getV x).toNat = k.toNat ∧ AdvancedBy2 s t ∧ t.keyPort = none ∧ t.agenda = rest ∧
      SameRegs (· = x) s t ∧ t.i = s.i ∧ SameMem (fun _ => False) s t ∧ SameStack s t ∧ SameTimers s t ∧
      SameRecord s t ∧ t.fb = s.fb ∧ t.draws = s.draws

/-- 60_exceptions.md R212: when no Fx0A is pending a key event is not seen by the core at all. -/
def Obligations.KeyEventIsUnseenOtherwise : Prop :=
  ∀ (s : State) (k : Nibble) (rest : List Turn), s.agenda = .key k :: rest →
    (s.status = .halted ∨ s.fetch = none ∨ (∃ w e, s.fetch = some w ∧ decode w = .error e) ∨
      (∃ w i, s.fetch = some w ∧ decode w = .ok i ∧ ∀ x, i ≠ .ldVxK x)) →
    step s = .next (s.setAgenda rest)

/-- 70_reset_and_hazards.md R230, R231, R234, 10_state.md R30 (decisions D16, D18, D19; font bytes log entry 6): Reset with
an image that fits gives the reset state, whatever the state before, with the font, the image from 0x200 on, and zeros. -/
def Obligations.ResetLoadsTheImage : Prop :=
  ∀ (s : State) (rom : List Byte) (rest : List Turn), s.agenda = .reset rom :: rest → rom.length ≤ 3584 →
    ∃ t, step s = .next t ∧
      (∀ (k : Nat) (h : k < rom.length), t.mem.read (0x200 + k) = rom[k]) ∧
      (∀ (a : Nat) (h : a < Config.fontBytes.length), t.mem.read a = Config.fontBytes[a]) ∧
      (∀ a : Nat, (0x50 ≤ a ∧ a < 0x200) ∨ 0x200 + rom.length ≤ a → t.mem.read a = 0#8) ∧
      (∀ r : Nibble, t.getV r = 0#8) ∧ t.i = 0#16 ∧ t.pc = 0x200#16 ∧ t.sp = 0#5 ∧ (∀ k : Fin 16, t.stack[k] = 0#16) ∧
      t.dt = 0#8 ∧ t.st = 0#8 ∧ t.status = .run ∧ t.errCause = 0#3 ∧ t.errInstr = 0#16 ∧ t.errPc = 0#16 ∧
      t.errAddr = 0#17 ∧ (∀ r c : Nat, t.fb.pixel r c = false) ∧ t.mem.wf = true

/-- 60_exceptions.md R201: an image of more than 3584 bytes yields no machine, and exactly such an image; that the turn
then answers the fault named capacityExceeded is log entry 10. -/
def Obligations.OversizeImageYieldsNoMachine : Prop :=
  ∀ (s : State) (rom : List Byte) (rest : List Turn), s.agenda = .reset rom :: rest →
    (3584 < rom.length ↔ step s = .fault .capacityExceeded) ∧ (rom.length ≤ 3584 ↔ ∃ t, step s = .next t)

/-! ### Isolation -/

/-- 43_host_bridge.md R165: no instruction but DRW learns anything of the display: from two states that differ in the
framebuffer alone it gives states that differ in the framebuffer alone. -/
def Obligations.DisplayIsReadOnlyByDrw : Prop :=
  ∀ (i : Instr) (s t : State) (d : Display), (∀ x y n, i ≠ .drw x y n) → exec i s = .next t →
    ∃ d', exec i (s.setFb d) = .next (t.setFb d')

/-- 00_scope.md R8: no instruction learns anything of whose turn comes next. -/
def Obligations.AgendaIsInvisibleToInstructions : Prop :=
  ∀ (i : Instr) (s t : State) (ts : List Turn), exec i s = .next t → exec i (s.setAgenda ts) = .next (t.setAgenda ts)

/-! ### Control transfer -/

/-- 40_control_transfer.md R102. -/
def Obligations.JpSetsPc : Prop :=
  ∀ (s : State) (nnn : Addr), ∃ t, exec (.jp nnn) s = .next t ∧ t.pc.toNat = nnn.toNat ∧ OnlyPcChanged s t

/-- 40_control_transfer.md R108: not masked to 12 bits, VF not written. -/
def Obligations.JpV0AddsTheRegister : Prop :=
  ∀ (s : State) (nnn : Addr), ∃ t, exec (.jpV0 nnn) s = .next t ∧
    t.pc.toNat = (nnn.toNat + (s.getV 0#4).toNat) % 65536 ∧ OnlyPcChanged s t

/-- 40_control_transfer.md R104, R105: PC + 4 when the condition holds, else PC + 2; nothing else changes. -/
def Obligations.ImmediateSkipsAdvanceByFourOrTwo : Prop :=
  (∀ (s : State) (x : Nibble) (kk : Byte), ∃ t, exec (.seImm x kk) s = .next t ∧
    t.pc.toNat = (s.pc.toNat + if (s.getV x).toNat = kk.toNat then 4 else 2) % 65536 ∧ OnlyPcChanged s t) ∧
  (∀ (s : State) (x : Nibble) (kk : Byte), ∃ t, exec (.sneImm x kk) s = .next t ∧
    t.pc.toNat = (s.pc.toNat + if (s.getV x).toNat ≠ kk.toNat then 4 else 2) % 65536 ∧ OnlyPcChanged s t)

/-- 40_control_transfer.md R106, R107: PC + 4 when the condition holds, else PC + 2; nothing else changes. That the register
forms exist for `n = 0` alone, every other `n` an illegal word, is decision D3 (30_encoding.md R81, log entry 20). -/
def Obligations.RegisterSkipsAdvanceByFourOrTwo : Prop :=
  (∀ (s : State) (x y : Nibble), ∃ t, exec (.seReg x y) s = .next t ∧
    t.pc.toNat = (s.pc.toNat + if (s.getV x).toNat = (s.getV y).toNat then 4 else 2) % 65536 ∧ OnlyPcChanged s t) ∧
  (∀ (s : State) (x y : Nibble), ∃ t, exec (.sneReg x y) s = .next t ∧
    t.pc.toNat = (s.pc.toNat + if (s.getV x).toNat ≠ (s.getV y).toNat then 4 else 2) % 65536 ∧ OnlyPcChanged s t) ∧
  (∀ x y n : Nibble, n ≠ 0#4 →
    decode (wordXYN 0x5#4 x y n) = .error (.illegalOpcode (wordXYN 0x5#4 x y n)) ∧
    decode (wordXYN 0x9#4 x y n) = .error (.illegalOpcode (wordXYN 0x9#4 x y n)))

/-- 40_control_transfer.md R103 (SP 0..16 is the invariant `State.SpOk`): below depth 16 the address of the CALL is stored
at STACK[SP], every other entry stays, SP grows by 1, PC is `nnn`. -/
def Obligations.CallPushesItsAddress : Prop :=
  ∀ (s : State) (nnn : Addr), s.sp.toNat < 16 →
    ∃ t, exec (.call nnn) s = .next t ∧ t.pc.toNat = nnn.toNat ∧ t.sp.toNat = s.sp.toNat + 1 ∧
      (∀ k : Fin 16, t.stack[k] = if k.val = s.sp.toNat then s.pc else s.stack[k]) ∧
      SameRegs (fun _ => False) s t ∧ t.i = s.i ∧ SameMem (fun _ => False) s t ∧ SameTimers s t ∧ SameRecord s t ∧
      SameOutside s t

/-- 40_control_transfer.md R103, 60_exceptions.md R203, R206 (decision D16): the 17th nested call halts. -/
def Obligations.CallOverflowHalts : Prop :=
  ∀ (s : State) (nnn : Addr), s.sp.toNat = 16 →
    ∃ t, exec (.call nnn) s = .next t ∧ Raised s t 3 (0x2000 + nnn.toNat) 0

/-- 40_control_transfer.md R101: with a call on the stack, PC is the popped address + 2 and SP falls by 1; the entries all
keep their value. -/
def Obligations.RetReturnsPastTheCall : Prop :=
  ∀ (s : State) (h0 : 0 < s.sp.toNat) (h : s.sp.toNat ≤ 16),
    ∃ t, exec .ret s = .next t ∧ t.pc.toNat = ((s.stack[s.sp.toNat - 1]'(by omega)).toNat + 2) % 65536 ∧
      t.sp.toNat = s.sp.toNat - 1 ∧ t.stack = s.stack ∧
      SameRegs (fun _ => False) s t ∧ t.i = s.i ∧ SameMem (fun _ => False) s t ∧ SameTimers s t ∧ SameRecord s t ∧
      SameOutside s t

/-- 40_control_transfer.md R101, 60_exceptions.md R204, R206 (decision D16): a return with no call halts. -/
def Obligations.RetUnderflowHalts : Prop :=
  ∀ s : State, s.sp = 0#5 → ∃ t, exec .ret s = .next t ∧ Raised s t 4 0x00EE 0

/-- 95_test_vectors.md S5: a call and then a return, whatever happened to the registers, memory, timers and PC in between,
come back to the instruction after the call with the depth of before. -/
def Obligations.CallThenReturnComesBack : Prop :=
  ∀ (s t u : State) (nnn : Addr), s.sp.toNat < 16 → exec (.call nnn) s = .next t →
    u.stack = t.stack → u.sp = t.sp →
    ∃ r, exec .ret u = .next r ∧ r.pc = s.pc + 2#16 ∧ r.sp = s.sp ∧
      ∀ k : Fin 16, k.val < s.sp.toNat → r.stack[k] = s.stack[k]

/-! ### Load and ALU -/

/-- 41_load_alu.md R121, R122, R123. -/
def Obligations.LoadsAndImmediateAdd : Prop :=
  (∀ (s : State) (x : Nibble) (kk : Byte), ∃ t, exec (.ldImm x kk) s = .next t ∧ t.getV x = kk ∧ AdvancedBy2 s t ∧
    OnlyRegsChanged (· = x) s t) ∧
  (∀ (s : State) (x : Nibble) (kk : Byte), ∃ t, exec (.addImm x kk) s = .next t ∧
    (t.getV x).toNat = ((s.getV x).toNat + kk.toNat) % 256 ∧ AdvancedBy2 s t ∧ OnlyRegsChanged (· = x) s t) ∧
  (∀ (s : State) (x y : Nibble), ∃ t, exec (.ldReg x y) s = .next t ∧ t.getV x = s.getV y ∧ AdvancedBy2 s t ∧
    OnlyRegsChanged (· = x) s t)

/-- 41_load_alu.md R124, R125, R126, bit by bit; that VF is unchanged (unless it is the destination) is decision D5. -/
def Obligations.LogicOperationsWriteOnlyVx : Prop :=
  (∀ (s : State) (x y : Nibble), ∃ t, exec (.orReg x y) s = .next t ∧
    (∀ k : Nat, (t.getV x).getLsbD k = ((s.getV x).getLsbD k || (s.getV y).getLsbD k)) ∧ AdvancedBy2 s t ∧
    OnlyRegsChanged (· = x) s t) ∧
  (∀ (s : State) (x y : Nibble), ∃ t, exec (.andReg x y) s = .next t ∧
    (∀ k : Nat, (t.getV x).getLsbD k = ((s.getV x).getLsbD k && (s.getV y).getLsbD k)) ∧ AdvancedBy2 s t ∧
    OnlyRegsChanged (· = x) s t) ∧
  (∀ (s : State) (x y : Nibble), ∃ t, exec (.xorReg x y) s = .next t ∧
    (∀ k : Nat, (t.getV x).getLsbD k = ((s.getV x).getLsbD k ^^ (s.getV y).getLsbD k)) ∧ AdvancedBy2 s t ∧
    OnlyRegsChanged (· = x) s t)

/-- 41_load_alu.md R127; that VF ends holding the carry even as destination is the order of decision D4. -/
def Obligations.AddSetsTheCarry : Prop :=
  ∀ (s : State) (x y : Nibble), ∃ t, exec (.addReg x y) s = .next t ∧
    (x ≠ 15#4 → (t.getV x).toNat = ((s.getV x).toNat + (s.getV y).toNat) % 256) ∧
    (t.getV 15#4).toNat = (if 255 < (s.getV x).toNat + (s.getV y).toNat then 1 else 0) ∧ AdvancedBy2 s t ∧
    OnlyRegsChanged (fun r => r = x ∨ r = 15#4) s t

/-- 41_load_alu.md R128, R130, flag 1 for not borrow; the order of result and flag is decision D4. -/
def Obligations.SubtractionsSetNotBorrow : Prop :=
  (∀ (s : State) (x y : Nibble), ∃ t, exec (.subReg x y) s = .next t ∧
    (x ≠ 15#4 → (t.getV x).toNat = ((s.getV x).toNat + 256 - (s.getV y).toNat) % 256) ∧
    (t.getV 15#4).toNat = (if (s.getV y).toNat ≤ (s.getV x).toNat then 1 else 0) ∧ AdvancedBy2 s t ∧
    OnlyRegsChanged (fun r => r = x ∨ r = 15#4) s t) ∧
  (∀ (s : State) (x y : Nibble), ∃ t, exec (.subnReg x y) s = .next t ∧
    (x ≠ 15#4 → (t.getV x).toNat = ((s.getV y).toNat + 256 - (s.getV x).toNat) % 256) ∧
    (t.getV 15#4).toNat = (if (s.getV x).toNat ≤ (s.getV y).toNat then 1 else 0) ∧ AdvancedBy2 s t ∧
    OnlyRegsChanged (fun r => r = x ∨ r = 15#4) s t)

/-- 41_load_alu.md R129, R131: V[x] in place, whatever `y` is; the flag is the bit shifted out; the order of result and
flag is decision D4. -/
def Obligations.ShiftsSetTheBitShiftedOut : Prop :=
  (∀ (s : State) (x y : Nibble), ∃ t, exec (.shr x y) s = .next t ∧
    (x ≠ 15#4 → (t.getV x).toNat = (s.getV x).toNat / 2) ∧ (t.getV 15#4).toNat = (s.getV x).toNat % 2 ∧
    AdvancedBy2 s t ∧ OnlyRegsChanged (fun r => r = x ∨ r = 15#4) s t) ∧
  (∀ (s : State) (x y : Nibble), ∃ t, exec (.shl x y) s = .next t ∧
    (x ≠ 15#4 → (t.getV x).toNat = (s.getV x).toNat * 2 % 256) ∧ (t.getV 15#4).toNat = (s.getV x).toNat / 128 ∧
    AdvancedBy2 s t ∧ OnlyRegsChanged (fun r => r = x ∨ r = 15#4) s t)

/-- 41_load_alu.md R132 (decision D14, log entry 2): the next draw under the mask, so bits that `kk` lacks are 0 whatever
the draw is; one draw is used up. -/
def Obligations.RndMasksTheDraw : Prop :=
  ∀ (s : State) (x : Nibble) (kk : Byte), ∃ t, exec (.rnd x kk) s = .next t ∧
    (∀ k : Nat, (t.getV x).getLsbD k = ((Config.randomByte s.draws).getLsbD k && kk.getLsbD k)) ∧
    t.getV x &&& ~~~kk = 0#8 ∧ AdvancedBy2 s t ∧ t.draws = s.draws + 1 ∧
    SameRegs (· = x) s t ∧ t.i = s.i ∧ SameMem (fun _ => False) s t ∧ SameStack s t ∧ SameTimers s t ∧
    SameRecord s t ∧ t.fb = s.fb ∧ t.keyPort = s.keyPort ∧ t.agenda = s.agenda

/-! ### Index and memory -/

/-- 42_index_memory.md R141, R143. -/
def Obligations.LoadIndexAndGlyphAddress : Prop :=
  (∀ (s : State) (nnn : Addr), ∃ t, exec (.ldI nnn) s = .next t ∧ t.i.toNat = nnn.toNat ∧ AdvancedBy2 s t ∧
    OnlyIChanged s t) ∧
  (∀ (s : State) (x : Nibble), ∃ t, exec (.ldF x) s = .next t ∧ t.i.toNat = 5 * ((s.getV x).toNat % 16) ∧
    AdvancedBy2 s t ∧ OnlyIChanged s t)

/-- 42_index_memory.md R142: modulo 65536, not masked to 12 bits (decision D6), VF unchanged (decision D5). -/
def Obligations.AddIndexWrapsAt65536 : Prop :=
  ∀ (s : State) (x : Nibble), ∃ t, exec (.addI x) s = .next t ∧ t.i.toNat = (s.i.toNat + (s.getV x).toNat) % 65536 ∧
    AdvancedBy2 s t ∧ OnlyIChanged s t

/-- 20_memory.md R50 (decision D10): the range check fails exactly when some byte of the range is outside memory, and names
the lowest such address. -/
def Obligations.RangeCheckNamesTheLowestBadAddress : Prop :=
  ∀ base count a : Nat, rangeError base count = some a ↔
    (base ≤ a ∧ a < base + count ∧ 4096 ≤ a ∧ ∀ b : Nat, base ≤ b → b < base + count → 4096 ≤ b → a ≤ b)

/-- 42_index_memory.md R144: the three decimal digits of V[x] at I, I + 1, I + 2; every other byte reads as before. -/
def Obligations.BcdStoresThreeDigits : Prop :=
  ∀ (s : State) (x : Nibble), s.i.toNat + 2 < 4096 →
    ∃ t, exec (.ldB x) s = .next t ∧
      (t.mem.read s.i.toNat).toNat = (s.getV x).toNat / 100 ∧
      (t.mem.read (s.i.toNat + 1)).toNat = (s.getV x).toNat / 10 % 10 ∧
      (t.mem.read (s.i.toNat + 2)).toNat = (s.getV x).toNat % 10 ∧
      100 * (t.mem.read s.i.toNat).toNat + 10 * (t.mem.read (s.i.toNat + 1)).toNat +
        (t.mem.read (s.i.toNat + 2)).toNat = (s.getV x).toNat ∧
      SameMem (fun a => s.i.toNat ≤ a ∧ a < s.i.toNat + 3) s t ∧ AdvancedBy2 s t ∧
      SameRegs (fun _ => False) s t ∧ t.i = s.i ∧ SameStack s t ∧ SameTimers s t ∧ SameRecord s t ∧ SameOutside s t

/-- 42_index_memory.md R145; that I is unchanged is decision D7: V[0]..V[x] at I..I + x, every other byte as before. -/
def Obligations.StoreWritesRegistersFromI : Prop :=
  ∀ (s : State) (x : Nibble), s.i.toNat + x.toNat < 4096 →
    ∃ t, exec (.storeRegs x) s = .next t ∧
      (∀ r : Nibble, r ≤ x → t.mem.read (s.i.toNat + r.toNat) = s.getV r) ∧
      SameMem (fun a => s.i.toNat ≤ a ∧ a ≤ s.i.toNat + x.toNat) s t ∧ AdvancedBy2 s t ∧
      SameRegs (fun _ => False) s t ∧ t.i = s.i ∧ SameStack s t ∧ SameTimers s t ∧ SameRecord s t ∧ SameOutside s t

/-- 42_index_memory.md R146; that I is unchanged is decision D7: V[0]..V[x] from I..I + x, the other registers as before. -/
def Obligations.LoadReadsRegistersFromI : Prop :=
  ∀ (s : State) (x : Nibble), s.i.toNat + x.toNat < 4096 →
    ∃ t, exec (.loadRegs x) s = .next t ∧
      (∀ r : Nibble, r ≤ x → t.getV r = s.mem.read (s.i.toNat + r.toNat)) ∧ AdvancedBy2 s t ∧
      OnlyRegsChanged (· ≤ x) s t

/-- 20_memory.md R47, R50, 60_exceptions.md R202, R206 (decisions D6, D10, D16): an access that would pass 0xFFF halts with
the address max(I, 4096), and no byte and no register is written. -/
def Obligations.MemoryAccessBeyondTheTopHalts : Prop :=
  (∀ (s : State) (x : Nibble), 4096 ≤ s.i.toNat + 2 →
    ∃ t, exec (.ldB x) s = .next t ∧ Raised s t 2 (0xF033 + x.toNat * 256) (max s.i.toNat 4096)) ∧
  (∀ (s : State) (x : Nibble), 4096 ≤ s.i.toNat + x.toNat →
    ∃ t, exec (.storeRegs x) s = .next t ∧ Raised s t 2 (0xF055 + x.toNat * 256) (max s.i.toNat 4096)) ∧
  (∀ (s : State) (x : Nibble), 4096 ≤ s.i.toNat + x.toNat →
    ∃ t, exec (.loadRegs x) s = .next t ∧ Raised s t 2 (0xF065 + x.toNat * 256) (max s.i.toNat 4096)) ∧
  (∀ (s : State) (x y n : Nibble), 0 < n.toNat → 4096 ≤ s.i.toNat + n.toNat - 1 →
    ∃ t, exec (.drw x y n) s = .next t ∧
      Raised s t 2 (0xD000 + x.toNat * 256 + y.toNat * 16 + n.toNat) (max s.i.toNat 4096))

/-- 20_memory.md R57 (decision D26): the two registers that a bulk store puts at the next PC are what the very next engine
step fetches, decodes and runs, on either form of the engine's turn (log entry 1). -/
def Obligations.StoredWordIsFetchedNext : Prop :=
  ∀ (s t : State) (x r r' : Nibble) (i : Instr), s.status = .run → exec (.storeRegs x) s = .next t →
    s.i.toNat + x.toNat < 4096 → r'.toNat = r.toNat + 1 → r' ≤ x → s.i.toNat + r.toNat = (s.pc.toNat + 2) % 65536 →
    decode (s.getV r ++ s.getV r') = .ok i →
    (s.agenda = [] → step t = exec i t) ∧ (∀ rest, s.agenda = .engine :: rest → step t = exec i (t.setAgenda rest))

/-! ### Host Bridge -/

/-- 43_host_bridge.md R170; that the display is state of the model is log entry 5 (R161, R165, decisions D1, D12). -/
def Obligations.ClsUnsetsEveryPixel : Prop :=
  ∀ s : State, ∃ t, exec .cls s = .next t ∧ (∀ r c : Nat, t.fb.pixel r c = false) ∧ AdvancedBy2 s t ∧
    SameRegs (fun _ => False) s t ∧ t.i = s.i ∧ SameMem (fun _ => False) s t ∧ SameStack s t ∧ SameTimers s t ∧
    SameRecord s t ∧ t.keyPort = s.keyPort ∧ t.draws = s.draws ∧ t.agenda = s.agenda

/-- 43_host_bridge.md R165, R171 (decisions D11, D12, log entry 5): DRW XORs the sprite onto the grid pixel by pixel, with
both coordinates wrapping, and VF is 1 exactly when some pixel was set and the sprite covers it. -/
def Obligations.DrwXorsTheSprite : Prop :=
  ∀ (s : State) (x y n : Nibble), n = 0#4 ∨ s.i.toNat + n.toNat ≤ 4096 →
    ∃ t, exec (.drw x y n) s = .next t ∧
      (∀ r c : Nat, r < 32 → c < 64 → t.fb.pixel r c =
        (s.fb.pixel r c ^^ spriteCovers s.mem s.i.toNat n.toNat (s.getV x).toNat (s.getV y).toNat r c)) ∧
      (((∃ r c : Nat, r < 32 ∧ c < 64 ∧ s.fb.pixel r c = true ∧
          spriteCovers s.mem s.i.toNat n.toNat (s.getV x).toNat (s.getV y).toNat r c = true) ∧ t.getV 15#4 = 1#8) ∨
        ((∀ r c : Nat, r < 32 → c < 64 → s.fb.pixel r c = true →
          spriteCovers s.mem s.i.toNat n.toNat (s.getV x).toNat (s.getV y).toNat r c = false) ∧ t.getV 15#4 = 0#8)) ∧
      AdvancedBy2 s t ∧ SameRegs (· = 15#4) s t ∧ t.i = s.i ∧ SameMem (fun _ => False) s t ∧ SameStack s t ∧
      SameTimers s t ∧ SameRecord s t ∧ t.keyPort = s.keyPort ∧ t.draws = s.draws ∧ t.agenda = s.agenda

/-- 43_host_bridge.md R171 (decision D12, log entry 5): drawing one sprite twice at one place restores the display, and the
second draw collides exactly when the sprite covers a pixel that was unset at first (on an empty display, when it has any
set pixel). The coordinates are not VF, which the first draw overwrites. -/
def Obligations.DrawingTwiceRestoresTheDisplay : Prop :=
  ∀ (s t u : State) (x y n : Nibble), x ≠ 15#4 → y ≠ 15#4 → (n = 0#4 ∨ s.i.toNat + n.toNat ≤ 4096) →
    exec (.drw x y n) s = .next t → exec (.drw x y n) t = .next u →
    u.fb = s.fb ∧
    (u.getV 15#4 = 1#8 ↔ ∃ r c : Nat, r < 32 ∧ c < 64 ∧ s.fb.pixel r c = false ∧
      spriteCovers s.mem s.i.toNat n.toNat (s.getV x).toNat (s.getV y).toNat r c = true)

/-- 43_host_bridge.md R172, R173 (decision D13, log entry 3): the skip follows the host's answer for the low nibble of V[x],
a free value; one draw is used up. -/
def Obligations.KeySkipsFollowTheAnswer : Prop :=
  (∀ (s : State) (x : Nibble), ∃ t, exec (.skp x) s = .next t ∧
    t.pc.toNat = (s.pc.toNat +
      if Config.keyIsDown s.draws (BitVec.ofNat 4 ((s.getV x).toNat % 16)) = true then 4 else 2) % 65536 ∧
    t.draws = s.draws + 1 ∧ SameRegs (fun _ => False) s t ∧ t.i = s.i ∧ SameMem (fun _ => False) s t ∧
    SameStack s t ∧ SameTimers s t ∧ SameRecord s t ∧ t.fb = s.fb ∧ t.keyPort = s.keyPort ∧ t.agenda = s.agenda) ∧
  (∀ (s : State) (x : Nibble), ∃ t, exec (.sknp x) s = .next t ∧
    t.pc.toNat = (s.pc.toNat +
      if Config.keyIsDown s.draws (BitVec.ofNat 4 ((s.getV x).toNat % 16)) = true then 2 else 4) % 65536 ∧
    t.draws = s.draws + 1 ∧ SameRegs (fun _ => False) s t ∧ t.i = s.i ∧ SameMem (fun _ => False) s t ∧
    SameStack s t ∧ SameTimers s t ∧ SameRecord s t ∧ t.fb = s.fb ∧ t.keyPort = s.keyPort ∧ t.agenda = s.agenda)

/-- 43_host_bridge.md R174 (decision D15, log entry 4): with a key event the key is stored zero-extended and consumed;
without one nothing changes. -/
def Obligations.KeyWaitStoresTheKey : Prop :=
  (∀ (s : State) (x k : Nibble), s.keyPort = some k → ∃ t, exec (.ldVxK x) s = .next t ∧
    (t.getV x).toNat = k.toNat ∧ t.keyPort = none ∧ AdvancedBy2 s t ∧ SameRegs (· = x) s t ∧ t.i = s.i ∧
    SameMem (fun _ => False) s t ∧ SameStack s t ∧ SameTimers s t ∧ SameRecord s t ∧ t.fb = s.fb ∧
    t.draws = s.draws ∧ t.agenda = s.agenda) ∧
  (∀ (s : State) (x : Nibble), s.keyPort = none → exec (.ldVxK x) s = .next s)

/-! ### Timers -/

/-- 44_timers.md R185, R186, R187. -/
def Obligations.TimerMoves : Prop :=
  (∀ (s : State) (x : Nibble), ∃ t, exec (.ldVxDt x) s = .next t ∧ t.getV x = s.dt ∧ AdvancedBy2 s t ∧
    OnlyRegsChanged (· = x) s t) ∧
  (∀ (s : State) (x : Nibble), ∃ t, exec (.ldDtVx x) s = .next t ∧ t.dt = s.getV x ∧ t.st = s.st ∧ AdvancedBy2 s t ∧
    SameRegs (fun _ => False) s t ∧ t.i = s.i ∧ SameMem (fun _ => False) s t ∧ SameStack s t ∧ SameRecord s t ∧
    SameOutside s t) ∧
  (∀ (s : State) (x : Nibble), ∃ t, exec (.ldStVx x) s = .next t ∧ t.st = s.getV x ∧ t.dt = s.dt ∧ AdvancedBy2 s t ∧
    SameRegs (fun _ => False) s t ∧ t.i = s.i ∧ SameMem (fun _ => False) s t ∧ SameStack s t ∧ SameRecord s t ∧
    SameOutside s t)
end

