-- ==== Sys2Proof/Laws/Decode.lean ====
section
/-! SUPPORT. The instruction formats as integers: what each word's fields are, and that a word is the join of its fields. -/

namespace Sys2Proof

/-- Concatenation as integers: the left operand is the more significant part (00_scope.md R5). -/
theorem append_toNat {m n : Nat} (a : BitVec m) (b : BitVec n) : (a ++ b).toNat = a.toNat * 2 ^ n + b.toNat := by
  rw [BitVec.toNat_append, ← Nat.shiftLeft_add_eq_or_of_lt b.isLt, Nat.shiftLeft_eq]

theorem wordA_toNat (op : Nibble) (nnn : Addr) : (wordA op nnn).toNat = op.toNat * 4096 + nnn.toNat :=
  append_toNat op nnn

theorem wordXK_toNat (op x : Nibble) (kk : Byte) :
    (wordXK op x kk).toNat = op.toNat * 4096 + x.toNat * 256 + kk.toNat := by
  have h : (wordXK op x kk).toNat = (op ++ x).toNat * 2 ^ 8 + kk.toNat := append_toNat (op ++ x) kk
  rw [h, append_toNat op x]
  omega

theorem wordXYN_toNat (op x y n : Nibble) :
    (wordXYN op x y n).toNat = op.toNat * 4096 + x.toNat * 256 + y.toNat * 16 + n.toNat := by
  have h : (wordXYN op x y n).toNat = (op ++ x).toNat * 2 ^ 8 + (y ++ n).toNat := append_toNat (op ++ x) (y ++ n)
  rw [h, append_toNat op x, append_toNat y n]
  omega

theorem wordOfBytes_toNat (hi lo : Byte) : (wordOfBytes hi lo).toNat = hi.toNat * 256 + lo.toNat := append_toNat hi lo

/-- A field as an integer: a quotient and a remainder (00_scope.md R5). -/
theorem field_toNat (w : Word) (start len : Nat) : (w.extractLsb' start len).toNat = w.toNat / 2 ^ start % 2 ^ len := by
  simp [Nat.shiftRight_eq_div_pow]

theorem fields_wordXYN (op x y n : Nibble) :
    fieldOp (wordXYN op x y n) = op ∧ fieldX (wordXYN op x y n) = x ∧ fieldY (wordXYN op x y n) = y ∧
      fieldN (wordXYN op x y n) = n := by
  have h := wordXYN_toNat op x y n
  have := op.isLt
  have := x.isLt
  have := y.isLt
  have := n.isLt
  refine ⟨?_, ?_, ?_, ?_⟩ <;> apply BitVec.eq_of_toNat_eq <;>
    simp only [fieldOp, fieldX, fieldY, fieldN, field_toNat, h] <;> omega

theorem fields_wordXK (op x : Nibble) (kk : Byte) :
    fieldOp (wordXK op x kk) = op ∧ fieldX (wordXK op x kk) = x ∧ fieldKK (wordXK op x kk) = kk := by
  have h := wordXK_toNat op x kk
  have := op.isLt
  have := x.isLt
  have := kk.isLt
  refine ⟨?_, ?_, ?_⟩ <;> apply BitVec.eq_of_toNat_eq <;>
    simp only [fieldOp, fieldX, fieldKK, field_toNat, h] <;> omega

theorem fields_wordA (op : Nibble) (nnn : Addr) : fieldOp (wordA op nnn) = op ∧ fieldNNN (wordA op nnn) = nnn := by
  have h := wordA_toNat op nnn
  have := op.isLt
  have := nnn.isLt
  refine ⟨?_, ?_⟩ <;> apply BitVec.eq_of_toNat_eq <;> simp only [fieldOp, fieldNNN, field_toNat, h] <;> omega

theorem wordXYN_fields (w : Word) : wordXYN (fieldOp w) (fieldX w) (fieldY w) (fieldN w) = w := by
  apply BitVec.eq_of_toNat_eq
  have := w.isLt
  simp only [wordXYN_toNat, fieldOp, fieldX, fieldY, fieldN, field_toNat]
  omega

theorem wordXK_fields (w : Word) : wordXK (fieldOp w) (fieldX w) (fieldKK w) = w := by
  apply BitVec.eq_of_toNat_eq
  have := w.isLt
  simp only [wordXK_toNat, fieldOp, fieldX, fieldKK, field_toNat]
  omega

theorem wordA_fields (w : Word) : wordA (fieldOp w) (fieldNNN w) = w := by
  apply BitVec.eq_of_toNat_eq
  have := w.isLt
  simp only [wordA_toNat, fieldOp, fieldNNN, field_toNat]
  omega

/-- Splitting a word into its two bytes and joining them gives the word back (20_memory.md R43). -/
theorem wordOfBytes_bytes (w : Word) : wordOfBytes (highByte w) (lowByte w) = w := by
  apply BitVec.eq_of_toNat_eq
  have := w.isLt
  simp only [wordOfBytes_toNat, highByte, lowByte, field_toNat]
  omega

end Sys2Proof
end

