-- ==== Sys2Proof/Laws/Display.lean ====
section
/-! SUPPORT. What flipping and clearing do to each pixel of the reference display. -/

namespace Sys2Proof.Machine

theorem Display.pixel_flip_same (d : Display) (r c : Nat) : (d.flip r c).pixel r c = !(d.pixel r c) := by
  simp [Display.flip, Display.pixel]

/-- A flip changes exactly the pixel at its coordinates modulo the grid, and inverts it. -/
theorem Display.pixel_flip (d : Display) (r c r' c' : Nat) :
    (d.flip r c).pixel r' c' =
      if r' % 32 = r % 32 ∧ c' % 64 = c % 64 then !(d.pixel r' c') else d.pixel r' c' := by
  unfold Display.flip Display.pixel
  by_cases hr : r' % 32 = r % 32
  · by_cases hc : c' % 64 = c % 64
    · simp [hr, hc]
    · simp [hr, hc, Vector.getElem_set_ne, Ne.symm hc]
  · simp [hr, Vector.getElem_set_ne, Ne.symm hr]

@[simp] theorem Display.pixel_cleared (r c : Nat) : Display.cleared.pixel r c = false := by
  simp [Display.cleared, Display.pixel]

end Sys2Proof.Machine
end

