-- ==== Sys2Proof/Laws/Memory.lean ====
section
/-! SUPPORT. The laws of memory: a read after a write, and that every memory operation keeps the canonical form. -/

namespace Sys2Proof.Machine

theorem Memory.read_erase_same (m : Memory) (a : Nat) : (m.erase a).read a = Memory.unlisted a := by
  induction m with
  | nil => rfl
  | cons c rest ih =>
    obtain ⟨k, b⟩ := c
    by_cases h : k = a <;> simp [Memory.erase, Memory.read, h, ih]

theorem Memory.read_erase_ne (m : Memory) {a b : Nat} (h : b ≠ a) : (m.erase a).read b = m.read b := by
  induction m with
  | nil => rfl
  | cons c rest ih =>
    obtain ⟨k, v⟩ := c
    by_cases hk : k = a
    · subst hk; simp [Memory.erase, Memory.read, ih, Ne.symm h]
    · simp [Memory.erase, Memory.read, hk, ih]

theorem Memory.read_insert_same (m : Memory) (a : Nat) (b : Byte) : (m.insert a b).read a = b := by
  induction m with
  | nil => simp [Memory.insert, Memory.read]
  | cons c rest ih =>
    obtain ⟨k, v⟩ := c
    unfold Memory.insert
    split
    · simp [Memory.read]
    · split
      · simp [Memory.read]
      · have : k ≠ a := by omega
        simp [Memory.read, this, ih]

theorem Memory.read_insert_ne (m : Memory) {a x : Nat} (b : Byte) (h : x ≠ a) : (m.insert a b).read x = m.read x := by
  induction m with
  | nil => simp [Memory.insert, Memory.read, Ne.symm h]
  | cons c rest ih =>
    obtain ⟨k, v⟩ := c
    unfold Memory.insert
    split
    · simp [Memory.read, Ne.symm h]
    · split
      · next hk => subst hk; simp [Memory.read, Ne.symm h]
      · simp [Memory.read, ih]

/-- A byte written reads back. -/
theorem Memory.read_write_same (m : Memory) (a : Nat) (b : Byte) : (m.write a b).read a = b := by
  unfold Memory.write
  split
  · next h => rw [Memory.read_erase_same, h]
  · exact Memory.read_insert_same m a b

/-- A write changes exactly one byte (20_memory.md R46). -/
theorem Memory.read_write_ne (m : Memory) {a x : Nat} (b : Byte) (h : x ≠ a) : (m.write a b).read x = m.read x := by
  unfold Memory.write
  split
  · exact Memory.read_erase_ne m h
  · exact Memory.read_insert_ne m b h

theorem Memory.wfFrom_mono {lo hi : Nat} (h : lo ≤ hi) : ∀ {m : Memory}, Memory.wfFrom hi m = true → Memory.wfFrom lo m = true
  | [], _ => rfl
  | (k, b) :: rest, hw => by
    simp only [Memory.wfFrom, Bool.and_eq_true, decide_eq_true_eq] at hw ⊢
    exact ⟨⟨⟨by omega, hw.1.1.2⟩, hw.1.2⟩, hw.2⟩

theorem Memory.wfFrom_erase (a : Nat) : ∀ {lo : Nat} {m : Memory}, Memory.wfFrom lo m = true → Memory.wfFrom lo (m.erase a) = true
  | _, [], _ => rfl
  | lo, (k, b) :: rest, hw => by
    simp only [Memory.wfFrom, Bool.and_eq_true, decide_eq_true_eq] at hw
    unfold Memory.erase
    split
    · exact Memory.wfFrom_mono (by omega) (Memory.wfFrom_erase a hw.2)
    · simp only [Memory.wfFrom, Bool.and_eq_true, decide_eq_true_eq]
      exact ⟨hw.1, Memory.wfFrom_erase a hw.2⟩

theorem Memory.wfFrom_insert {a : Nat} {b : Byte} (ha : a < Config.memSize) (hb : b ≠ Memory.unlisted a) :
    ∀ {lo : Nat} {m : Memory}, lo ≤ a → Memory.wfFrom lo m = true → Memory.wfFrom lo (m.insert a b) = true
  | lo, [], hl, _ => by simp [Memory.insert, Memory.wfFrom, hl, ha, hb]
  | lo, (k, c) :: rest, hl, hw => by
    simp only [Memory.wfFrom, Bool.and_eq_true, decide_eq_true_eq] at hw
    unfold Memory.insert
    split
    · simp only [Memory.wfFrom, Bool.and_eq_true, decide_eq_true_eq]
      exact ⟨⟨⟨hl, ha⟩, hb⟩, ⟨⟨by omega, hw.1.1.2⟩, hw.1.2⟩, hw.2⟩
    · split
      · next hk =>
        subst hk
        simp only [Memory.wfFrom, Bool.and_eq_true, decide_eq_true_eq]
        exact ⟨⟨⟨hl, ha⟩, hb⟩, hw.2⟩
      · simp only [Memory.wfFrom, Bool.and_eq_true, decide_eq_true_eq]
        exact ⟨hw.1, Memory.wfFrom_insert ha hb (by omega) hw.2⟩

/-- A write within memory keeps the canonical form. -/
theorem Memory.wf_write {m : Memory} {a : Nat} (b : Byte) (ha : a < Config.memSize) (hm : m.wf = true) :
    (m.write a b).wf = true := by
  unfold Memory.write
  split
  · exact Memory.wfFrom_erase a hm
  · next hb => exact Memory.wfFrom_insert ha hb (Nat.zero_le a) hm

/-- A run of writes within memory keeps the canonical form. -/
theorem Memory.wf_writeRun : ∀ (bs : List Byte) {m : Memory} {base : Nat}, base + bs.length ≤ Config.memSize →
    m.wf = true → (m.writeRun base bs).wf = true
  | [], _, _, _, hm => hm
  | b :: bs, _, base, hl, hm => by
    simp only [List.length_cons] at hl
    exact Memory.wf_writeRun bs (base := base + 1) (by omega) (Memory.wf_write b (by omega) hm)

/-- Below and above the bytes a run of writes stores to, memory reads as before. -/
theorem Memory.read_writeRun_outside : ∀ (bs : List Byte) (m : Memory) (base : Nat) {x : Nat},
    (x < base ∨ base + bs.length ≤ x) → (m.writeRun base bs).read x = m.read x
  | [], _, _, _, _ => rfl
  | b :: bs, m, base, x, hx => by
    simp only [List.length_cons] at hx
    unfold Memory.writeRun
    rw [Memory.read_writeRun_outside bs (m.write base b) (base + 1) (by omega), Memory.read_write_ne m b (by omega)]

/-- The `k`-th byte of a run of writes reads back at `base + k`. -/
theorem Memory.read_writeRun_inside : ∀ (bs : List Byte) (m : Memory) (base k : Nat) (hk : k < bs.length),
    (m.writeRun base bs).read (base + k) = bs[k]
  | b :: bs, m, base, 0, _ => by
    unfold Memory.writeRun
    rw [Memory.read_writeRun_outside bs _ (base + 1) (by omega)]
    exact Memory.read_write_same m base b
  | b :: bs, m, base, k + 1, hk => by
    unfold Memory.writeRun
    have := Memory.read_writeRun_inside bs (m.write base b) (base + 1) k (by simpa using hk)
    rw [show base + (k + 1) = base + 1 + k by omega, this]
    rfl

@[simp] theorem Memory.length_readRun (m : Memory) : ∀ (n base : Nat), (m.readRun base n).length = n
  | 0, _ => rfl
  | n + 1, base => by simp [Memory.readRun, Memory.length_readRun m n]

/-- The `k`-th byte of a run of reads. -/
theorem Memory.getElem_readRun (m : Memory) : ∀ (n base k : Nat) (hk : k < (m.readRun base n).length),
    (m.readRun base n)[k] = m.read (base + k)
  | n + 1, base, 0, _ => rfl
  | n + 1, base, k + 1, hk => by
    simp only [Memory.readRun, List.getElem_cons_succ]
    rw [Memory.getElem_readRun m n (base + 1) k]
    congr 1
    omega

end Sys2Proof.Machine
end

