-- ==== Sys2Proof/Laws/Operands.lean ====
section
/-! SUPPORT. The operand forms and flag bytes as integers. -/

namespace Sys2Proof.Machine

theorem addrOperand_toNat (nnn : Addr) : (addrOperand nnn).toNat = nnn.toNat := by
  have := nnn.isLt
  simp only [addrOperand, BitVec.toNat_setWidth]
  omega

theorem State.getVWord_toNat (s : State) (x : Nibble) : (s.getVWord x).toNat = (s.getV x).toNat := by
  have := (s.getV x).isLt
  simp only [State.getVWord, BitVec.toNat_setWidth]
  omega

theorem State.getVNibble_toNat (s : State) (x : Nibble) : (s.getVNibble x).toNat = (s.getV x).toNat % 16 := by
  simp only [State.getVNibble, BitVec.toNat_setWidth]

theorem glyphAddress_toNat (g : Nibble) : (glyphAddress g).toNat = 5 * g.toNat := by
  have := g.isLt
  simp only [glyphAddress, Config.glyphLen, BitVec.toNat_ofNat]
  omega

@[simp] theorem length_bcdDigits (b : Byte) : (bcdDigits b).length = 3 := rfl

/-- A flag byte is 1 exactly when its condition holds (10_state.md R12). -/
theorem flagByte_toNat (f : Bool) : (flagByte f).toNat = if f = true then 1 else 0 := by
  cases f <;> rfl

/-- The skip's new PC as an integer. -/
theorem State.skipIf_pc_toNat (s : State) (c : Bool) :
    (s.skipIf c).pc.toNat = (s.pc.toNat + if c = true then 4 else 2) % 65536 := by
  cases c <;> simp [State.skipIf, State.setPc, BitVec.toNat_add]

/-- The advance's new PC as an integer. -/
theorem State.advance_pc_toNat (s : State) : s.advance.pc.toNat = (s.pc.toNat + 2) % 65536 := by
  simp [State.advance, State.setPc, BitVec.toNat_add]

end Sys2Proof.Machine
end

