-- ==== Sys2Proof/Laws/State.lean ====
section
/-! SUPPORT. One lemma per field per named update of State, each true by definition, so that no later proof unfolds a
record update. -/

namespace Sys2Proof.Machine

@[simp] theorem State.setV_v (s : State) (x : Nibble) (b : Byte) : (s.setV x b).v = s.v.set x.toNat b x.isLt := rfl
@[simp] theorem State.setV_i (s : State) (x : Nibble) (b : Byte) : (s.setV x b).i = s.i := rfl
@[simp] theorem State.setV_pc (s : State) (x : Nibble) (b : Byte) : (s.setV x b).pc = s.pc := rfl
@[simp] theorem State.setV_stack (s : State) (x : Nibble) (b : Byte) : (s.setV x b).stack = s.stack := rfl
@[simp] theorem State.setV_sp (s : State) (x : Nibble) (b : Byte) : (s.setV x b).sp = s.sp := rfl
@[simp] theorem State.setV_dt (s : State) (x : Nibble) (b : Byte) : (s.setV x b).dt = s.dt := rfl
@[simp] theorem State.setV_st (s : State) (x : Nibble) (b : Byte) : (s.setV x b).st = s.st := rfl
@[simp] theorem State.setV_mem (s : State) (x : Nibble) (b : Byte) : (s.setV x b).mem = s.mem := rfl
@[simp] theorem State.setV_status (s : State) (x : Nibble) (b : Byte) : (s.setV x b).status = s.status := rfl
@[simp] theorem State.setV_errCause (s : State) (x : Nibble) (b : Byte) : (s.setV x b).errCause = s.errCause := rfl
@[simp] theorem State.setV_errInstr (s : State) (x : Nibble) (b : Byte) : (s.setV x b).errInstr = s.errInstr := rfl
@[simp] theorem State.setV_errPc (s : State) (x : Nibble) (b : Byte) : (s.setV x b).errPc = s.errPc := rfl
@[simp] theorem State.setV_errAddr (s : State) (x : Nibble) (b : Byte) : (s.setV x b).errAddr = s.errAddr := rfl
@[simp] theorem State.setV_fb (s : State) (x : Nibble) (b : Byte) : (s.setV x b).fb = s.fb := rfl
@[simp] theorem State.setV_keyPort (s : State) (x : Nibble) (b : Byte) : (s.setV x b).keyPort = s.keyPort := rfl
@[simp] theorem State.setV_draws (s : State) (x : Nibble) (b : Byte) : (s.setV x b).draws = s.draws := rfl
@[simp] theorem State.setV_agenda (s : State) (x : Nibble) (b : Byte) : (s.setV x b).agenda = s.agenda := rfl

@[simp] theorem State.setPc_v (s : State) (a : Word) : (s.setPc a).v = s.v := rfl
@[simp] theorem State.setPc_i (s : State) (a : Word) : (s.setPc a).i = s.i := rfl
@[simp] theorem State.setPc_pc (s : State) (a : Word) : (s.setPc a).pc = a := rfl
@[simp] theorem State.setPc_stack (s : State) (a : Word) : (s.setPc a).stack = s.stack := rfl
@[simp] theorem State.setPc_sp (s : State) (a : Word) : (s.setPc a).sp = s.sp := rfl
@[simp] theorem State.setPc_dt (s : State) (a : Word) : (s.setPc a).dt = s.dt := rfl
@[simp] theorem State.setPc_st (s : State) (a : Word) : (s.setPc a).st = s.st := rfl
@[simp] theorem State.setPc_mem (s : State) (a : Word) : (s.setPc a).mem = s.mem := rfl
@[simp] theorem State.setPc_status (s : State) (a : Word) : (s.setPc a).status = s.status := rfl
@[simp] theorem State.setPc_errCause (s : State) (a : Word) : (s.setPc a).errCause = s.errCause := rfl
@[simp] theorem State.setPc_errInstr (s : State) (a : Word) : (s.setPc a).errInstr = s.errInstr := rfl
@[simp] theorem State.setPc_errPc (s : State) (a : Word) : (s.setPc a).errPc = s.errPc := rfl
@[simp] theorem State.setPc_errAddr (s : State) (a : Word) : (s.setPc a).errAddr = s.errAddr := rfl
@[simp] theorem State.setPc_fb (s : State) (a : Word) : (s.setPc a).fb = s.fb := rfl
@[simp] theorem State.setPc_keyPort (s : State) (a : Word) : (s.setPc a).keyPort = s.keyPort := rfl
@[simp] theorem State.setPc_draws (s : State) (a : Word) : (s.setPc a).draws = s.draws := rfl
@[simp] theorem State.setPc_agenda (s : State) (a : Word) : (s.setPc a).agenda = s.agenda := rfl

@[simp] theorem State.setI_v (s : State) (a : Word) : (s.setI a).v = s.v := rfl
@[simp] theorem State.setI_i (s : State) (a : Word) : (s.setI a).i = a := rfl
@[simp] theorem State.setI_pc (s : State) (a : Word) : (s.setI a).pc = s.pc := rfl
@[simp] theorem State.setI_stack (s : State) (a : Word) : (s.setI a).stack = s.stack := rfl
@[simp] theorem State.setI_sp (s : State) (a : Word) : (s.setI a).sp = s.sp := rfl
@[simp] theorem State.setI_dt (s : State) (a : Word) : (s.setI a).dt = s.dt := rfl
@[simp] theorem State.setI_st (s : State) (a : Word) : (s.setI a).st = s.st := rfl
@[simp] theorem State.setI_mem (s : State) (a : Word) : (s.setI a).mem = s.mem := rfl
@[simp] theorem State.setI_status (s : State) (a : Word) : (s.setI a).status = s.status := rfl
@[simp] theorem State.setI_errCause (s : State) (a : Word) : (s.setI a).errCause = s.errCause := rfl
@[simp] theorem State.setI_errInstr (s : State) (a : Word) : (s.setI a).errInstr = s.errInstr := rfl
@[simp] theorem State.setI_errPc (s : State) (a : Word) : (s.setI a).errPc = s.errPc := rfl
@[simp] theorem State.setI_errAddr (s : State) (a : Word) : (s.setI a).errAddr = s.errAddr := rfl
@[simp] theorem State.setI_fb (s : State) (a : Word) : (s.setI a).fb = s.fb := rfl
@[simp] theorem State.setI_keyPort (s : State) (a : Word) : (s.setI a).keyPort = s.keyPort := rfl
@[simp] theorem State.setI_draws (s : State) (a : Word) : (s.setI a).draws = s.draws := rfl
@[simp] theorem State.setI_agenda (s : State) (a : Word) : (s.setI a).agenda = s.agenda := rfl

@[simp] theorem State.setDt_v (s : State) (b : Byte) : (s.setDt b).v = s.v := rfl
@[simp] theorem State.setDt_i (s : State) (b : Byte) : (s.setDt b).i = s.i := rfl
@[simp] theorem State.setDt_pc (s : State) (b : Byte) : (s.setDt b).pc = s.pc := rfl
@[simp] theorem State.setDt_stack (s : State) (b : Byte) : (s.setDt b).stack = s.stack := rfl
@[simp] theorem State.setDt_sp (s : State) (b : Byte) : (s.setDt b).sp = s.sp := rfl
@[simp] theorem State.setDt_dt (s : State) (b : Byte) : (s.setDt b).dt = b := rfl
@[simp] theorem State.setDt_st (s : State) (b : Byte) : (s.setDt b).st = s.st := rfl
@[simp] theorem State.setDt_mem (s : State) (b : Byte) : (s.setDt b).mem = s.mem := rfl
@[simp] theorem State.setDt_status (s : State) (b : Byte) : (s.setDt b).status = s.status := rfl
@[simp] theorem State.setDt_errCause (s : State) (b : Byte) : (s.setDt b).errCause = s.errCause := rfl
@[simp] theorem State.setDt_errInstr (s : State) (b : Byte) : (s.setDt b).errInstr = s.errInstr := rfl
@[simp] theorem State.setDt_errPc (s : State) (b : Byte) : (s.setDt b).errPc = s.errPc := rfl
@[simp] theorem State.setDt_errAddr (s : State) (b : Byte) : (s.setDt b).errAddr = s.errAddr := rfl
@[simp] theorem State.setDt_fb (s : State) (b : Byte) : (s.setDt b).fb = s.fb := rfl
@[simp] theorem State.setDt_keyPort (s : State) (b : Byte) : (s.setDt b).keyPort = s.keyPort := rfl
@[simp] theorem State.setDt_draws (s : State) (b : Byte) : (s.setDt b).draws = s.draws := rfl
@[simp] theorem State.setDt_agenda (s : State) (b : Byte) : (s.setDt b).agenda = s.agenda := rfl

@[simp] theorem State.setSt_v (s : State) (b : Byte) : (s.setSt b).v = s.v := rfl
@[simp] theorem State.setSt_i (s : State) (b : Byte) : (s.setSt b).i = s.i := rfl
@[simp] theorem State.setSt_pc (s : State) (b : Byte) : (s.setSt b).pc = s.pc := rfl
@[simp] theorem State.setSt_stack (s : State) (b : Byte) : (s.setSt b).stack = s.stack := rfl
@[simp] theorem State.setSt_sp (s : State) (b : Byte) : (s.setSt b).sp = s.sp := rfl
@[simp] theorem State.setSt_dt (s : State) (b : Byte) : (s.setSt b).dt = s.dt := rfl
@[simp] theorem State.setSt_st (s : State) (b : Byte) : (s.setSt b).st = b := rfl
@[simp] theorem State.setSt_mem (s : State) (b : Byte) : (s.setSt b).mem = s.mem := rfl
@[simp] theorem State.setSt_status (s : State) (b : Byte) : (s.setSt b).status = s.status := rfl
@[simp] theorem State.setSt_errCause (s : State) (b : Byte) : (s.setSt b).errCause = s.errCause := rfl
@[simp] theorem State.setSt_errInstr (s : State) (b : Byte) : (s.setSt b).errInstr = s.errInstr := rfl
@[simp] theorem State.setSt_errPc (s : State) (b : Byte) : (s.setSt b).errPc = s.errPc := rfl
@[simp] theorem State.setSt_errAddr (s : State) (b : Byte) : (s.setSt b).errAddr = s.errAddr := rfl
@[simp] theorem State.setSt_fb (s : State) (b : Byte) : (s.setSt b).fb = s.fb := rfl
@[simp] theorem State.setSt_keyPort (s : State) (b : Byte) : (s.setSt b).keyPort = s.keyPort := rfl
@[simp] theorem State.setSt_draws (s : State) (b : Byte) : (s.setSt b).draws = s.draws := rfl
@[simp] theorem State.setSt_agenda (s : State) (b : Byte) : (s.setSt b).agenda = s.agenda := rfl

@[simp] theorem State.setMem_v (s : State) (m : Memory) : (s.setMem m).v = s.v := rfl
@[simp] theorem State.setMem_i (s : State) (m : Memory) : (s.setMem m).i = s.i := rfl
@[simp] theorem State.setMem_pc (s : State) (m : Memory) : (s.setMem m).pc = s.pc := rfl
@[simp] theorem State.setMem_stack (s : State) (m : Memory) : (s.setMem m).stack = s.stack := rfl
@[simp] theorem State.setMem_sp (s : State) (m : Memory) : (s.setMem m).sp = s.sp := rfl
@[simp] theorem State.setMem_dt (s : State) (m : Memory) : (s.setMem m).dt = s.dt := rfl
@[simp] theorem State.setMem_st (s : State) (m : Memory) : (s.setMem m).st = s.st := rfl
@[simp] theorem State.setMem_mem (s : State) (m : Memory) : (s.setMem m).mem = m := rfl
@[simp] theorem State.setMem_status (s : State) (m : Memory) : (s.setMem m).status = s.status := rfl
@[simp] theorem State.setMem_errCause (s : State) (m : Memory) : (s.setMem m).errCause = s.errCause := rfl
@[simp] theorem State.setMem_errInstr (s : State) (m : Memory) : (s.setMem m).errInstr = s.errInstr := rfl
@[simp] theorem State.setMem_errPc (s : State) (m : Memory) : (s.setMem m).errPc = s.errPc := rfl
@[simp] theorem State.setMem_errAddr (s : State) (m : Memory) : (s.setMem m).errAddr = s.errAddr := rfl
@[simp] theorem State.setMem_fb (s : State) (m : Memory) : (s.setMem m).fb = s.fb := rfl
@[simp] theorem State.setMem_keyPort (s : State) (m : Memory) : (s.setMem m).keyPort = s.keyPort := rfl
@[simp] theorem State.setMem_draws (s : State) (m : Memory) : (s.setMem m).draws = s.draws := rfl
@[simp] theorem State.setMem_agenda (s : State) (m : Memory) : (s.setMem m).agenda = s.agenda := rfl

@[simp] theorem State.setFb_v (s : State) (d : Display) : (s.setFb d).v = s.v := rfl
@[simp] theorem State.setFb_i (s : State) (d : Display) : (s.setFb d).i = s.i := rfl
@[simp] theorem State.setFb_pc (s : State) (d : Display) : (s.setFb d).pc = s.pc := rfl
@[simp] theorem State.setFb_stack (s : State) (d : Display) : (s.setFb d).stack = s.stack := rfl
@[simp] theorem State.setFb_sp (s : State) (d : Display) : (s.setFb d).sp = s.sp := rfl
@[simp] theorem State.setFb_dt (s : State) (d : Display) : (s.setFb d).dt = s.dt := rfl
@[simp] theorem State.setFb_st (s : State) (d : Display) : (s.setFb d).st = s.st := rfl
@[simp] theorem State.setFb_mem (s : State) (d : Display) : (s.setFb d).mem = s.mem := rfl
@[simp] theorem State.setFb_status (s : State) (d : Display) : (s.setFb d).status = s.status := rfl
@[simp] theorem State.setFb_errCause (s : State) (d : Display) : (s.setFb d).errCause = s.errCause := rfl
@[simp] theorem State.setFb_errInstr (s : State) (d : Display) : (s.setFb d).errInstr = s.errInstr := rfl
@[simp] theorem State.setFb_errPc (s : State) (d : Display) : (s.setFb d).errPc = s.errPc := rfl
@[simp] theorem State.setFb_errAddr (s : State) (d : Display) : (s.setFb d).errAddr = s.errAddr := rfl
@[simp] theorem State.setFb_fb (s : State) (d : Display) : (s.setFb d).fb = d := rfl
@[simp] theorem State.setFb_keyPort (s : State) (d : Display) : (s.setFb d).keyPort = s.keyPort := rfl
@[simp] theorem State.setFb_draws (s : State) (d : Display) : (s.setFb d).draws = s.draws := rfl
@[simp] theorem State.setFb_agenda (s : State) (d : Display) : (s.setFb d).agenda = s.agenda := rfl

@[simp] theorem State.takeKey_v (s : State) : (s.takeKey).v = s.v := rfl
@[simp] theorem State.takeKey_i (s : State) : (s.takeKey).i = s.i := rfl
@[simp] theorem State.takeKey_pc (s : State) : (s.takeKey).pc = s.pc := rfl
@[simp] theorem State.takeKey_stack (s : State) : (s.takeKey).stack = s.stack := rfl
@[simp] theorem State.takeKey_sp (s : State) : (s.takeKey).sp = s.sp := rfl
@[simp] theorem State.takeKey_dt (s : State) : (s.takeKey).dt = s.dt := rfl
@[simp] theorem State.takeKey_st (s : State) : (s.takeKey).st = s.st := rfl
@[simp] theorem State.takeKey_mem (s : State) : (s.takeKey).mem = s.mem := rfl
@[simp] theorem State.takeKey_status (s : State) : (s.takeKey).status = s.status := rfl
@[simp] theorem State.takeKey_errCause (s : State) : (s.takeKey).errCause = s.errCause := rfl
@[simp] theorem State.takeKey_errInstr (s : State) : (s.takeKey).errInstr = s.errInstr := rfl
@[simp] theorem State.takeKey_errPc (s : State) : (s.takeKey).errPc = s.errPc := rfl
@[simp] theorem State.takeKey_errAddr (s : State) : (s.takeKey).errAddr = s.errAddr := rfl
@[simp] theorem State.takeKey_fb (s : State) : (s.takeKey).fb = s.fb := rfl
@[simp] theorem State.takeKey_keyPort (s : State) : (s.takeKey).keyPort = none := rfl
@[simp] theorem State.takeKey_draws (s : State) : (s.takeKey).draws = s.draws := rfl
@[simp] theorem State.takeKey_agenda (s : State) : (s.takeKey).agenda = s.agenda := rfl

@[simp] theorem State.useDraw_v (s : State) : (s.useDraw).v = s.v := rfl
@[simp] theorem State.useDraw_i (s : State) : (s.useDraw).i = s.i := rfl
@[simp] theorem State.useDraw_pc (s : State) : (s.useDraw).pc = s.pc := rfl
@[simp] theorem State.useDraw_stack (s : State) : (s.useDraw).stack = s.stack := rfl
@[simp] theorem State.useDraw_sp (s : State) : (s.useDraw).sp = s.sp := rfl
@[simp] theorem State.useDraw_dt (s : State) : (s.useDraw).dt = s.dt := rfl
@[simp] theorem State.useDraw_st (s : State) : (s.useDraw).st = s.st := rfl
@[simp] theorem State.useDraw_mem (s : State) : (s.useDraw).mem = s.mem := rfl
@[simp] theorem State.useDraw_status (s : State) : (s.useDraw).status = s.status := rfl
@[simp] theorem State.useDraw_errCause (s : State) : (s.useDraw).errCause = s.errCause := rfl
@[simp] theorem State.useDraw_errInstr (s : State) : (s.useDraw).errInstr = s.errInstr := rfl
@[simp] theorem State.useDraw_errPc (s : State) : (s.useDraw).errPc = s.errPc := rfl
@[simp] theorem State.useDraw_errAddr (s : State) : (s.useDraw).errAddr = s.errAddr := rfl
@[simp] theorem State.useDraw_fb (s : State) : (s.useDraw).fb = s.fb := rfl
@[simp] theorem State.useDraw_keyPort (s : State) : (s.useDraw).keyPort = s.keyPort := rfl
@[simp] theorem State.useDraw_draws (s : State) : (s.useDraw).draws = s.draws + 1 := rfl
@[simp] theorem State.useDraw_agenda (s : State) : (s.useDraw).agenda = s.agenda := rfl

@[simp] theorem State.setAgenda_v (s : State) (ts : List Turn) : (s.setAgenda ts).v = s.v := rfl
@[simp] theorem State.setAgenda_i (s : State) (ts : List Turn) : (s.setAgenda ts).i = s.i := rfl
@[simp] theorem State.setAgenda_pc (s : State) (ts : List Turn) : (s.setAgenda ts).pc = s.pc := rfl
@[simp] theorem State.setAgenda_stack (s : State) (ts : List Turn) : (s.setAgenda ts).stack = s.stack := rfl
@[simp] theorem State.setAgenda_sp (s : State) (ts : List Turn) : (s.setAgenda ts).sp = s.sp := rfl
@[simp] theorem State.setAgenda_dt (s : State) (ts : List Turn) : (s.setAgenda ts).dt = s.dt := rfl
@[simp] theorem State.setAgenda_st (s : State) (ts : List Turn) : (s.setAgenda ts).st = s.st := rfl
@[simp] theorem State.setAgenda_mem (s : State) (ts : List Turn) : (s.setAgenda ts).mem = s.mem := rfl
@[simp] theorem State.setAgenda_status (s : State) (ts : List Turn) : (s.setAgenda ts).status = s.status := rfl
@[simp] theorem State.setAgenda_errCause (s : State) (ts : List Turn) : (s.setAgenda ts).errCause = s.errCause := rfl
@[simp] theorem State.setAgenda_errInstr (s : State) (ts : List Turn) : (s.setAgenda ts).errInstr = s.errInstr := rfl
@[simp] theorem State.setAgenda_errPc (s : State) (ts : List Turn) : (s.setAgenda ts).errPc = s.errPc := rfl
@[simp] theorem State.setAgenda_errAddr (s : State) (ts : List Turn) : (s.setAgenda ts).errAddr = s.errAddr := rfl
@[simp] theorem State.setAgenda_fb (s : State) (ts : List Turn) : (s.setAgenda ts).fb = s.fb := rfl
@[simp] theorem State.setAgenda_keyPort (s : State) (ts : List Turn) : (s.setAgenda ts).keyPort = s.keyPort := rfl
@[simp] theorem State.setAgenda_draws (s : State) (ts : List Turn) : (s.setAgenda ts).draws = s.draws := rfl
@[simp] theorem State.setAgenda_agenda (s : State) (ts : List Turn) : (s.setAgenda ts).agenda = ts := rfl

@[simp] theorem State.advance_v (s : State) : (s.advance).v = s.v := rfl
@[simp] theorem State.advance_i (s : State) : (s.advance).i = s.i := rfl
@[simp] theorem State.advance_pc (s : State) : (s.advance).pc = s.pc + 2#16 := rfl
@[simp] theorem State.advance_stack (s : State) : (s.advance).stack = s.stack := rfl
@[simp] theorem State.advance_sp (s : State) : (s.advance).sp = s.sp := rfl
@[simp] theorem State.advance_dt (s : State) : (s.advance).dt = s.dt := rfl
@[simp] theorem State.advance_st (s : State) : (s.advance).st = s.st := rfl
@[simp] theorem State.advance_mem (s : State) : (s.advance).mem = s.mem := rfl
@[simp] theorem State.advance_status (s : State) : (s.advance).status = s.status := rfl
@[simp] theorem State.advance_errCause (s : State) : (s.advance).errCause = s.errCause := rfl
@[simp] theorem State.advance_errInstr (s : State) : (s.advance).errInstr = s.errInstr := rfl
@[simp] theorem State.advance_errPc (s : State) : (s.advance).errPc = s.errPc := rfl
@[simp] theorem State.advance_errAddr (s : State) : (s.advance).errAddr = s.errAddr := rfl
@[simp] theorem State.advance_fb (s : State) : (s.advance).fb = s.fb := rfl
@[simp] theorem State.advance_keyPort (s : State) : (s.advance).keyPort = s.keyPort := rfl
@[simp] theorem State.advance_draws (s : State) : (s.advance).draws = s.draws := rfl
@[simp] theorem State.advance_agenda (s : State) : (s.advance).agenda = s.agenda := rfl

@[simp] theorem State.skipIf_v (s : State) (c : Bool) : (s.skipIf c).v = s.v := rfl
@[simp] theorem State.skipIf_i (s : State) (c : Bool) : (s.skipIf c).i = s.i := rfl
@[simp] theorem State.skipIf_pc (s : State) (c : Bool) : (s.skipIf c).pc = s.pc + if c then 4#16 else 2#16 := rfl
@[simp] theorem State.skipIf_stack (s : State) (c : Bool) : (s.skipIf c).stack = s.stack := rfl
@[simp] theorem State.skipIf_sp (s : State) (c : Bool) : (s.skipIf c).sp = s.sp := rfl
@[simp] theorem State.skipIf_dt (s : State) (c : Bool) : (s.skipIf c).dt = s.dt := rfl
@[simp] theorem State.skipIf_st (s : State) (c : Bool) : (s.skipIf c).st = s.st := rfl
@[simp] theorem State.skipIf_mem (s : State) (c : Bool) : (s.skipIf c).mem = s.mem := rfl
@[simp] theorem State.skipIf_status (s : State) (c : Bool) : (s.skipIf c).status = s.status := rfl
@[simp] theorem State.skipIf_errCause (s : State) (c : Bool) : (s.skipIf c).errCause = s.errCause := rfl
@[simp] theorem State.skipIf_errInstr (s : State) (c : Bool) : (s.skipIf c).errInstr = s.errInstr := rfl
@[simp] theorem State.skipIf_errPc (s : State) (c : Bool) : (s.skipIf c).errPc = s.errPc := rfl
@[simp] theorem State.skipIf_errAddr (s : State) (c : Bool) : (s.skipIf c).errAddr = s.errAddr := rfl
@[simp] theorem State.skipIf_fb (s : State) (c : Bool) : (s.skipIf c).fb = s.fb := rfl
@[simp] theorem State.skipIf_keyPort (s : State) (c : Bool) : (s.skipIf c).keyPort = s.keyPort := rfl
@[simp] theorem State.skipIf_draws (s : State) (c : Bool) : (s.skipIf c).draws = s.draws := rfl
@[simp] theorem State.skipIf_agenda (s : State) (c : Bool) : (s.skipIf c).agenda = s.agenda := rfl

@[simp] theorem State.push_v (s : State) (w : Word) : (s.push w).v = s.v := rfl
@[simp] theorem State.push_i (s : State) (w : Word) : (s.push w).i = s.i := rfl
@[simp] theorem State.push_pc (s : State) (w : Word) : (s.push w).pc = s.pc := rfl
@[simp] theorem State.push_stack (s : State) (w : Word) : (s.push w).stack = s.stack.setIfInBounds s.sp.toNat w := rfl
@[simp] theorem State.push_sp (s : State) (w : Word) : (s.push w).sp = s.sp + 1#5 := rfl
@[simp] theorem State.push_dt (s : State) (w : Word) : (s.push w).dt = s.dt := rfl
@[simp] theorem State.push_st (s : State) (w : Word) : (s.push w).st = s.st := rfl
@[simp] theorem State.push_mem (s : State) (w : Word) : (s.push w).mem = s.mem := rfl
@[simp] theorem State.push_status (s : State) (w : Word) : (s.push w).status = s.status := rfl
@[simp] theorem State.push_errCause (s : State) (w : Word) : (s.push w).errCause = s.errCause := rfl
@[simp] theorem State.push_errInstr (s : State) (w : Word) : (s.push w).errInstr = s.errInstr := rfl
@[simp] theorem State.push_errPc (s : State) (w : Word) : (s.push w).errPc = s.errPc := rfl
@[simp] theorem State.push_errAddr (s : State) (w : Word) : (s.push w).errAddr = s.errAddr := rfl
@[simp] theorem State.push_fb (s : State) (w : Word) : (s.push w).fb = s.fb := rfl
@[simp] theorem State.push_keyPort (s : State) (w : Word) : (s.push w).keyPort = s.keyPort := rfl
@[simp] theorem State.push_draws (s : State) (w : Word) : (s.push w).draws = s.draws := rfl
@[simp] theorem State.push_agenda (s : State) (w : Word) : (s.push w).agenda = s.agenda := rfl

@[simp] theorem State.drop_v (s : State) : (s.drop).v = s.v := rfl
@[simp] theorem State.drop_i (s : State) : (s.drop).i = s.i := rfl
@[simp] theorem State.drop_pc (s : State) : (s.drop).pc = s.pc := rfl
@[simp] theorem State.drop_stack (s : State) : (s.drop).stack = s.stack := rfl
@[simp] theorem State.drop_sp (s : State) : (s.drop).sp = s.sp - 1#5 := rfl
@[simp] theorem State.drop_dt (s : State) : (s.drop).dt = s.dt := rfl
@[simp] theorem State.drop_st (s : State) : (s.drop).st = s.st := rfl
@[simp] theorem State.drop_mem (s : State) : (s.drop).mem = s.mem := rfl
@[simp] theorem State.drop_status (s : State) : (s.drop).status = s.status := rfl
@[simp] theorem State.drop_errCause (s : State) : (s.drop).errCause = s.errCause := rfl
@[simp] theorem State.drop_errInstr (s : State) : (s.drop).errInstr = s.errInstr := rfl
@[simp] theorem State.drop_errPc (s : State) : (s.drop).errPc = s.errPc := rfl
@[simp] theorem State.drop_errAddr (s : State) : (s.drop).errAddr = s.errAddr := rfl
@[simp] theorem State.drop_fb (s : State) : (s.drop).fb = s.fb := rfl
@[simp] theorem State.drop_keyPort (s : State) : (s.drop).keyPort = s.keyPort := rfl
@[simp] theorem State.drop_draws (s : State) : (s.drop).draws = s.draws := rfl
@[simp] theorem State.drop_agenda (s : State) : (s.drop).agenda = s.agenda := rfl

@[simp] theorem State.tick_v (s : State) : (s.tick).v = s.v := rfl
@[simp] theorem State.tick_i (s : State) : (s.tick).i = s.i := rfl
@[simp] theorem State.tick_pc (s : State) : (s.tick).pc = s.pc := rfl
@[simp] theorem State.tick_stack (s : State) : (s.tick).stack = s.stack := rfl
@[simp] theorem State.tick_sp (s : State) : (s.tick).sp = s.sp := rfl
@[simp] theorem State.tick_dt (s : State) : (s.tick).dt = tickDown s.dt := rfl
@[simp] theorem State.tick_st (s : State) : (s.tick).st = tickDown s.st := rfl
@[simp] theorem State.tick_mem (s : State) : (s.tick).mem = s.mem := rfl
@[simp] theorem State.tick_status (s : State) : (s.tick).status = s.status := rfl
@[simp] theorem State.tick_errCause (s : State) : (s.tick).errCause = s.errCause := rfl
@[simp] theorem State.tick_errInstr (s : State) : (s.tick).errInstr = s.errInstr := rfl
@[simp] theorem State.tick_errPc (s : State) : (s.tick).errPc = s.errPc := rfl
@[simp] theorem State.tick_errAddr (s : State) : (s.tick).errAddr = s.errAddr := rfl
@[simp] theorem State.tick_fb (s : State) : (s.tick).fb = s.fb := rfl
@[simp] theorem State.tick_keyPort (s : State) : (s.tick).keyPort = s.keyPort := rfl
@[simp] theorem State.tick_draws (s : State) : (s.tick).draws = s.draws := rfl
@[simp] theorem State.tick_agenda (s : State) : (s.tick).agenda = s.agenda := rfl

@[simp] theorem State.raise_v (s : State) (c : Cause) (instr : Word) (addr : Nat) : (s.raise c instr addr).v = s.v := rfl
@[simp] theorem State.raise_i (s : State) (c : Cause) (instr : Word) (addr : Nat) : (s.raise c instr addr).i = s.i := rfl
@[simp] theorem State.raise_pc (s : State) (c : Cause) (instr : Word) (addr : Nat) : (s.raise c instr addr).pc = s.pc := rfl
@[simp] theorem State.raise_stack (s : State) (c : Cause) (instr : Word) (addr : Nat) : (s.raise c instr addr).stack = s.stack := rfl
@[simp] theorem State.raise_sp (s : State) (c : Cause) (instr : Word) (addr : Nat) : (s.raise c instr addr).sp = s.sp := rfl
@[simp] theorem State.raise_dt (s : State) (c : Cause) (instr : Word) (addr : Nat) : (s.raise c instr addr).dt = s.dt := rfl
@[simp] theorem State.raise_st (s : State) (c : Cause) (instr : Word) (addr : Nat) : (s.raise c instr addr).st = s.st := rfl
@[simp] theorem State.raise_mem (s : State) (c : Cause) (instr : Word) (addr : Nat) : (s.raise c instr addr).mem = s.mem := rfl
@[simp] theorem State.raise_status (s : State) (c : Cause) (instr : Word) (addr : Nat) : (s.raise c instr addr).status = .halted := rfl
@[simp] theorem State.raise_errCause (s : State) (c : Cause) (instr : Word) (addr : Nat) : (s.raise c instr addr).errCause = causeCode c := rfl
@[simp] theorem State.raise_errInstr (s : State) (c : Cause) (instr : Word) (addr : Nat) : (s.raise c instr addr).errInstr = instr := rfl
@[simp] theorem State.raise_errPc (s : State) (c : Cause) (instr : Word) (addr : Nat) : (s.raise c instr addr).errPc = s.pc := rfl
@[simp] theorem State.raise_errAddr (s : State) (c : Cause) (instr : Word) (addr : Nat) : (s.raise c instr addr).errAddr = BitVec.ofNat 17 addr := rfl
@[simp] theorem State.raise_fb (s : State) (c : Cause) (instr : Word) (addr : Nat) : (s.raise c instr addr).fb = s.fb := rfl
@[simp] theorem State.raise_keyPort (s : State) (c : Cause) (instr : Word) (addr : Nat) : (s.raise c instr addr).keyPort = s.keyPort := rfl
@[simp] theorem State.raise_draws (s : State) (c : Cause) (instr : Word) (addr : Nat) : (s.raise c instr addr).draws = s.draws := rfl
@[simp] theorem State.raise_agenda (s : State) (c : Cause) (instr : Word) (addr : Nat) : (s.raise c instr addr).agenda = s.agenda := rfl

end Sys2Proof.Machine
end

