-- ==== Sys2Proof/Laws/Registers.lean ====
section
/-! SUPPORT. The laws of the general registers, and what each shared operation over them does. -/

namespace Sys2Proof.Machine

@[simp] theorem State.getV_setV_same (s : State) (x : Nibble) (b : Byte) : (s.setV x b).getV x = b := by
  simp [State.getV]

theorem State.getV_setV_ne (s : State) {x y : Nibble} (b : Byte) (h : y ≠ x) : (s.setV x b).getV y = s.getV y := by
  have : x.toNat ≠ y.toNat := fun e => h (BitVec.eq_of_toNat_eq e.symm)
  simp [State.getV, Vector.getElem_set_ne, this]

/-- A register reads what was last written to it, and otherwise what it held. -/
theorem State.getV_setV (s : State) (x y : Nibble) (b : Byte) :
    (s.setV x b).getV y = if y = x then b else s.getV y := by
  split
  · next h => subst h; exact State.getV_setV_same s y b
  · next h => exact State.getV_setV_ne s b h

/-- A register's value depends on the register file alone. -/
theorem State.getV_congr {s t : State} (h : t.v = s.v) (x : Nibble) : t.getV x = s.getV x := by
  simp [State.getV, h]

@[simp] theorem State.getV_setPc (s : State) (a : Word) (x : Nibble) : (s.setPc a).getV x = s.getV x := rfl
@[simp] theorem State.getV_advance (s : State) (x : Nibble) : s.advance.getV x = s.getV x := rfl
@[simp] theorem State.getV_setI (s : State) (a : Word) (x : Nibble) : (s.setI a).getV x = s.getV x := rfl
@[simp] theorem State.getV_setDt (s : State) (b : Byte) (x : Nibble) : (s.setDt b).getV x = s.getV x := rfl
@[simp] theorem State.getV_setSt (s : State) (b : Byte) (x : Nibble) : (s.setSt b).getV x = s.getV x := rfl
@[simp] theorem State.getV_setMem (s : State) (m : Memory) (x : Nibble) : (s.setMem m).getV x = s.getV x := rfl
@[simp] theorem State.getV_setFb (s : State) (d : Display) (x : Nibble) : (s.setFb d).getV x = s.getV x := rfl
@[simp] theorem State.getV_takeKey (s : State) (x : Nibble) : s.takeKey.getV x = s.getV x := rfl
@[simp] theorem State.getV_useDraw (s : State) (x : Nibble) : s.useDraw.getV x = s.getV x := rfl
@[simp] theorem State.getV_skipIf (s : State) (c : Bool) (x : Nibble) : (s.skipIf c).getV x = s.getV x := rfl
@[simp] theorem State.getV_tick (s : State) (x : Nibble) : s.tick.getV x = s.getV x := rfl
@[simp] theorem State.getV_push (s : State) (w : Word) (x : Nibble) : (s.push w).getV x = s.getV x := rfl
@[simp] theorem State.getV_drop (s : State) (x : Nibble) : s.drop.getV x = s.getV x := rfl
@[simp] theorem State.getV_raise (s : State) (c : Cause) (w : Word) (a : Nat) (x : Nibble) :
    (s.raise c w a).getV x = s.getV x := rfl

/-- What `putResult` does to the registers; all else but PC is as before (`State.putResult_eq`). -/
theorem State.getV_putResult (s : State) (x y : Nibble) (r : Byte) :
    (s.putResult x r).getV y = if y = x then r else s.getV y := by
  simp [State.putResult, State.getV_setV]

/-- `putResult` writes the register file and PC, nothing else. -/
theorem State.putResult_eq (s : State) (x : Nibble) (r : Byte) :
    s.putResult x r = { s with v := s.v.set x.toNat r x.isLt, pc := s.pc + 2#16 } := rfl

/-- What `putResultFlag` does to the registers: VF ends holding the flag, even when it is the destination
(10_state.md R13). -/
theorem State.getV_putResultFlag (s : State) (x y : Nibble) (r : Byte) (f : Bool) :
    (s.putResultFlag x r f).getV y = if y = 15#4 then flagByte f else if y = x then r else s.getV y := by
  simp only [State.putResultFlag, State.getV_advance, State.getV_setV]

/-- `putResultFlag` writes the register file and PC, nothing else. -/
theorem State.putResultFlag_eq (s : State) (x : Nibble) (r : Byte) (f : Bool) :
    s.putResultFlag x r f =
      { s with v := (s.v.set x.toNat r x.isLt).set 15 (flagByte f) (by decide), pc := s.pc + 2#16 } := rfl

@[simp] theorem State.length_regRun (s : State) : ∀ (n k : Nat), (s.regRun k n).length = n
  | 0, _ => rfl
  | n + 1, k => by simp [State.regRun, State.length_regRun s n]

/-- The `j`-th byte of a run of registers. -/
theorem State.getElem_regRun (s : State) : ∀ (n k j : Nat) (hj : j < (s.regRun k n).length),
    (s.regRun k n)[j] = s.getV (BitVec.ofNat 4 (k + j))
  | n + 1, k, 0, _ => rfl
  | n + 1, k, j + 1, hj => by
    simp only [State.regRun, List.getElem_cons_succ]
    rw [State.getElem_regRun s n (k + 1) j]
    congr 2
    omega

/-- `loadRun` writes the register file and nothing else. -/
theorem State.loadRun_eq : ∀ (bs : List Byte) (s : State) (k : Nat), s.loadRun k bs = { s with v := (s.loadRun k bs).v }
  | [], _, _ => rfl
  | b :: bs, s, k => by
    unfold State.loadRun
    rw [State.loadRun_eq bs (s.setV (BitVec.ofNat 4 k) b) (k + 1)]
    rfl

/-- The same for use in a rewrite or with `obtain`: some register file, all else as before. -/
theorem State.loadRun_frame (s : State) (k : Nat) (bs : List Byte) : ∃ v, s.loadRun k bs = { s with v := v } :=
  ⟨_, State.loadRun_eq bs s k⟩

/-- A run of registers depends on the register file alone. -/
theorem State.regRun_congr {s t : State} (h : t.v = s.v) : ∀ n k : Nat, t.regRun k n = s.regRun k n
  | 0, _ => rfl
  | n + 1, k => by simp only [State.regRun, State.getV_congr h, State.regRun_congr h n]

/-- Registers outside a loaded run keep their value. -/
theorem State.getV_loadRun_outside : ∀ (bs : List Byte) (s : State) (k : Nat) {r : Nibble}, k + bs.length ≤ 16 →
    (r.toNat < k ∨ k + bs.length ≤ r.toNat) → (s.loadRun k bs).getV r = s.getV r
  | [], _, _, _, _, _ => rfl
  | b :: bs, s, k, r, hl, hr => by
    simp only [List.length_cons] at hl hr
    unfold State.loadRun
    rw [State.getV_loadRun_outside bs _ (k + 1) (by omega) (by omega), State.getV_setV_ne]
    intro h
    rw [h, BitVec.toNat_ofNat] at hr
    omega

/-- The `j`-th register of a loaded run takes the `j`-th byte. -/
theorem State.getV_loadRun_inside : ∀ (bs : List Byte) (s : State) (k j : Nat) (hj : j < bs.length), k + bs.length ≤ 16 →
    (s.loadRun k bs).getV (BitVec.ofNat 4 (k + j)) = bs[j]
  | b :: bs, s, k, 0, _, hl => by
    simp only [List.length_cons] at hl
    unfold State.loadRun
    rw [State.getV_loadRun_outside bs _ (k + 1) (by omega) (by simp only [BitVec.toNat_ofNat]; omega)]
    exact State.getV_setV_same s _ b
  | b :: bs, s, k, j + 1, hj, hl => by
    simp only [List.length_cons] at hj hl
    unfold State.loadRun
    have := State.getV_loadRun_inside bs (s.setV (BitVec.ofNat 4 k) b) (k + 1) j (by omega) (by omega)
    rw [show k + (j + 1) = k + 1 + j by omega, this]
    rfl

end Sys2Proof.Machine
end

