-- ==== Sys2Proof/Laws/Ops.lean ====
section
/-! SUPPORT. For each shared operation one lemma that says once what it can do. -/

namespace Sys2Proof.Machine

/-- The range check passes exactly when the whole range is in memory or empty (20_memory.md R50). -/
theorem rangeError_eq_none {base count : Nat} : rangeError base count = none ↔ count = 0 ∨ base + count ≤ 4096 := by
  unfold rangeError Config.memSize
  split <;> simp <;> omega

/-- The range check names the larger of the base and 4096 (20_memory.md R50). -/
theorem rangeError_eq_some {base count a : Nat} :
    rangeError base count = some a ↔ 0 < count ∧ 4096 < base + count ∧ a = max base 4096 := by
  unfold rangeError Config.memSize
  split <;> simp <;> omega

/-- A guarded effect: the range is good and the effect happens, or OutOfRange is raised and nothing else. -/
theorem guardRange_cases {s t u : State} {instr : Word} {base count : Nat}
    (h : guardRange s instr base count t = .next u) :
    ((count = 0 ∨ base + count ≤ 4096) ∧ u = t) ∨
    ((0 < count ∧ 4096 < base + count) ∧ u = s.raise .outOfRange instr (max base 4096)) := by
  unfold guardRange at h
  split at h
  · next a ha =>
    obtain ⟨h1, h2, rfl⟩ := rangeError_eq_some.mp ha
    exact .inr ⟨⟨h1, h2⟩, by cases h; rfl⟩
  · next hn => exact .inl ⟨rangeError_eq_none.mp hn, by cases h; rfl⟩

theorem guardRange_ok {s t : State} {instr : Word} {base count : Nat} (h : count = 0 ∨ base + count ≤ 4096) :
    guardRange s instr base count t = .next t := by
  simp only [guardRange, rangeError_eq_none.mpr h]

theorem guardRange_raises {s t : State} {instr : Word} {base count : Nat} (h : 0 < count) (h' : 4096 < base + count) :
    guardRange s instr base count t = .next (s.raise .outOfRange instr (max base 4096)) := by
  simp only [guardRange, rangeError_eq_some.mpr ⟨h, h', rfl⟩]

/-- Everything raising an error leaves (60_exceptions.md R206). -/
theorem State.raised_raise (s : State) (c : Cause) (instr : Word) {addr : Nat} (h : addr < 2 ^ 17) :
    Raised s (s.raise c instr addr) (causeCode c).toNat instr.toNat addr := by
  refine ⟨rfl, rfl, rfl, rfl, ?_, rfl, rfl, rfl, rfl, rfl, rfl, rfl, rfl, rfl, rfl, rfl, rfl⟩
  simp only [State.raise_errAddr, BitVec.toNat_ofNat]
  exact Nat.mod_eq_of_lt h

/-- The advance moves PC by 2. -/
theorem State.advancedBy2_advance (s : State) : AdvancedBy2 s s.advance := State.advance_pc_toNat s

/-- Writing registers, PC and I leaves everything beyond them. -/
theorem sameBeyondRegs_update (s : State) (v : Vector Byte 16) (pc i : Word) :
    SameBeyondRegs s { s with v := v, pc := pc, i := i } :=
  ⟨fun _ _ => rfl, ⟨rfl, rfl⟩, ⟨rfl, rfl⟩, ⟨rfl, rfl, rfl, rfl, rfl⟩, ⟨rfl, rfl, rfl, rfl⟩⟩

/-- Writing PC leaves everything else. -/
theorem State.onlyPcChanged_setPc (s : State) (a : Word) : OnlyPcChanged s (s.setPc a) :=
  ⟨fun _ _ => rfl, rfl, sameBeyondRegs_update s s.v a s.i⟩

/-- A result without a flag leaves everything but its register and PC. -/
theorem State.onlyRegsChanged_putResult (s : State) (x : Nibble) (r : Byte) :
    OnlyRegsChanged (· = x) s (s.putResult x r) :=
  ⟨fun y h => by rw [State.getV_putResult, if_neg h], rfl, sameBeyondRegs_update s _ _ s.i⟩

/-- A result with a flag leaves everything but its register, VF and PC. -/
theorem State.onlyRegsChanged_putResultFlag (s : State) (x : Nibble) (r : Byte) (f : Bool) :
    OnlyRegsChanged (fun y => y = x ∨ y = 15#4) s (s.putResultFlag x r f) :=
  ⟨fun y h => by rw [State.getV_putResultFlag, if_neg (fun e => h (.inr e)), if_neg (fun e => h (.inl e))], rfl,
    sameBeyondRegs_update s _ _ s.i⟩

/-- Writing I and the advance leave everything else. -/
theorem State.onlyIChanged_setI (s : State) (a : Word) : OnlyIChanged s (s.setI a).advance :=
  ⟨fun _ _ => rfl, sameBeyondRegs_update s s.v _ a⟩

end Sys2Proof.Machine
end

