-- ==== Sys2Proof/Laws/Exec.lean ====
section
/-! SUPPORT. What running an instruction can do to STATUS and the fault record, said once. -/

namespace Sys2Proof.Machine

/-- An instruction either raises one error from the state before it, with its own word, or leaves STATUS and the fault
record alone. -/
theorem exec_raises_or_keeps {i : Instr} {s t : State} (h : exec i s = .next t) :
    (t = s.raise .stackUnderflow (encode i) 0) ∨ (t = s.raise .stackOverflow (encode i) 0) ∨
    (t = s.raise .outOfRange (encode i) (max s.i.toNat 4096)) ∨ SameRecord s t := by
  have keep : ∀ u : State, SameRecord u u := fun _ => ⟨rfl, rfl, rfl, rfl, rfl⟩
  cases i
  case ret =>
    simp only [exec, execRet] at h
    split at h <;> cases h
    · exact .inl rfl
    · exact .inr (.inr (.inr (keep s)))
  case call nnn =>
    simp only [exec, execCall] at h
    split at h <;> cases h
    · exact .inr (.inl rfl)
    · exact .inr (.inr (.inr (keep s)))
  case ldVxK x =>
    simp only [exec, execLdVxK] at h
    split at h <;> cases h <;> exact .inr (.inr (.inr (keep s)))
  case drw x y n =>
    obtain ⟨-, rfl⟩ | ⟨-, rfl⟩ := guardRange_cases h
    · exact .inr (.inr (.inr (keep s)))
    · exact .inr (.inr (.inl rfl))
  case ldB x =>
    obtain ⟨-, rfl⟩ | ⟨-, rfl⟩ := guardRange_cases h
    · exact .inr (.inr (.inr (keep s)))
    · exact .inr (.inr (.inl rfl))
  case storeRegs x =>
    obtain ⟨-, rfl⟩ | ⟨-, rfl⟩ := guardRange_cases h
    · exact .inr (.inr (.inr (keep s)))
    · exact .inr (.inr (.inl rfl))
  case loadRegs x =>
    obtain ⟨-, rfl⟩ | ⟨-, rfl⟩ := guardRange_cases h
    · rw [State.loadRun_eq]
      exact .inr (.inr (.inr (keep s)))
    · exact .inr (.inr (.inl rfl))
  all_goals
    simp only [exec] at h
    cases h
    exact .inr (.inr (.inr (keep s)))

end Sys2Proof.Machine
end

