-- ==== Sys2Proof/Laws/PerInstr.lean ====
section
/-! SUPPORT. Statements made for every instruction, one lemma per constructor. The family `EncodesInRow`: the word of an
instruction has, under its row's mask, exactly its row's pattern, whatever the operands (30_encoding.md R80). -/

namespace Sys2Proof.Laws.EncodesInRow

/-- The instruction's word matches the instruction's own row of the opcode map. -/
def Statement (i : Instr) : Prop := rowMatches i.row (encode i) = true

theorem row_wordA (op : Nibble) (p : Word) (nnn : Addr) (h : op ++ 0#12 = p) :
    rowMatches ⟨p, 0xF000#16⟩ (wordA op nnn) = true := by
  subst h
  rw [rowMatches, beq_iff_eq, wordA, show (0xF000#16 : Word) = 0xF#4 ++ 0#12 by decide, BitVec.and_append]
  congr 1
  · exact BitVec.and_allOnes (x := op)
  · simp

theorem row_wordXK (op : Nibble) (p : Word) (x : Nibble) (kk : Byte) (h : (op ++ 0#4) ++ 0#8 = p) :
    rowMatches ⟨p, 0xF000#16⟩ (wordXK op x kk) = true := by
  subst h
  rw [rowMatches, beq_iff_eq, wordXK, show (0xF000#16 : Word) = (0xF#4 ++ 0#4) ++ 0#8 by decide, BitVec.and_append,
    BitVec.and_append]
  congr 1
  · congr 1
    · exact BitVec.and_allOnes (x := op)
    · simp
  · simp

theorem row_wordX (op : Nibble) (p : Word) (kk : Byte) (x : Nibble) (h : (op ++ 0#4) ++ kk = p) :
    rowMatches ⟨p, 0xF0FF#16⟩ (wordXK op x kk) = true := by
  subst h
  rw [rowMatches, beq_iff_eq, wordXK, show (0xF0FF#16 : Word) = (0xF#4 ++ 0#4) ++ 0xFF#8 by decide, BitVec.and_append,
    BitVec.and_append]
  congr 1
  · congr 1
    · exact BitVec.and_allOnes (x := op)
    · simp
  · exact BitVec.and_allOnes (x := kk)

theorem row_wordXY (op : Nibble) (p : Word) (n : Nibble) (x y : Nibble) (h : (op ++ 0#4) ++ (0#4 ++ n) = p) :
    rowMatches ⟨p, 0xF00F#16⟩ (wordXYN op x y n) = true := by
  subst h
  rw [rowMatches, beq_iff_eq, wordXYN, show (0xF00F#16 : Word) = (0xF#4 ++ 0#4) ++ (0#4 ++ 0xF#4) by decide,
    BitVec.and_append, BitVec.and_append, BitVec.and_append]
  congr 1
  · congr 1
    · exact BitVec.and_allOnes (x := op)
    · simp
  · congr 1
    · simp
    · exact BitVec.and_allOnes (x := n)

theorem row_wordXYN (op : Nibble) (p : Word) (x y n : Nibble) (h : (op ++ 0#4) ++ 0#8 = p) :
    rowMatches ⟨p, 0xF000#16⟩ (wordXYN op x y n) = true :=
  row_wordXK op p x (y ++ n) h

theorem cls : Statement (.cls) := rfl
theorem ret : Statement (.ret) := rfl
theorem jp (nnn : Addr) : Statement (.jp nnn) := row_wordA _ _ nnn (by decide)
theorem call (nnn : Addr) : Statement (.call nnn) := row_wordA _ _ nnn (by decide)
theorem seImm (x : Nibble) (kk : Byte) : Statement (.seImm x kk) := row_wordXK _ _ x kk (by decide)
theorem sneImm (x : Nibble) (kk : Byte) : Statement (.sneImm x kk) := row_wordXK _ _ x kk (by decide)
theorem seReg (x y : Nibble) : Statement (.seReg x y) := row_wordXY _ _ _ x y (by decide)
theorem ldImm (x : Nibble) (kk : Byte) : Statement (.ldImm x kk) := row_wordXK _ _ x kk (by decide)
theorem addImm (x : Nibble) (kk : Byte) : Statement (.addImm x kk) := row_wordXK _ _ x kk (by decide)
theorem ldReg (x y : Nibble) : Statement (.ldReg x y) := row_wordXY _ _ _ x y (by decide)
theorem orReg (x y : Nibble) : Statement (.orReg x y) := row_wordXY _ _ _ x y (by decide)
theorem andReg (x y : Nibble) : Statement (.andReg x y) := row_wordXY _ _ _ x y (by decide)
theorem xorReg (x y : Nibble) : Statement (.xorReg x y) := row_wordXY _ _ _ x y (by decide)
theorem addReg (x y : Nibble) : Statement (.addReg x y) := row_wordXY _ _ _ x y (by decide)
theorem subReg (x y : Nibble) : Statement (.subReg x y) := row_wordXY _ _ _ x y (by decide)
theorem shr (x y : Nibble) : Statement (.shr x y) := row_wordXY _ _ _ x y (by decide)
theorem subnReg (x y : Nibble) : Statement (.subnReg x y) := row_wordXY _ _ _ x y (by decide)
theorem shl (x y : Nibble) : Statement (.shl x y) := row_wordXY _ _ _ x y (by decide)
theorem sneReg (x y : Nibble) : Statement (.sneReg x y) := row_wordXY _ _ _ x y (by decide)
theorem ldI (nnn : Addr) : Statement (.ldI nnn) := row_wordA _ _ nnn (by decide)
theorem jpV0 (nnn : Addr) : Statement (.jpV0 nnn) := row_wordA _ _ nnn (by decide)
theorem rnd (x : Nibble) (kk : Byte) : Statement (.rnd x kk) := row_wordXK _ _ x kk (by decide)
theorem drw (x y n : Nibble) : Statement (.drw x y n) := row_wordXYN _ _ x y n (by decide)
theorem skp (x : Nibble) : Statement (.skp x) := row_wordX _ _ _ x (by decide)
theorem sknp (x : Nibble) : Statement (.sknp x) := row_wordX _ _ _ x (by decide)
theorem ldVxDt (x : Nibble) : Statement (.ldVxDt x) := row_wordX _ _ _ x (by decide)
theorem ldVxK (x : Nibble) : Statement (.ldVxK x) := row_wordX _ _ _ x (by decide)
theorem ldDtVx (x : Nibble) : Statement (.ldDtVx x) := row_wordX _ _ _ x (by decide)
theorem ldStVx (x : Nibble) : Statement (.ldStVx x) := row_wordX _ _ _ x (by decide)
theorem addI (x : Nibble) : Statement (.addI x) := row_wordX _ _ _ x (by decide)
theorem ldF (x : Nibble) : Statement (.ldF x) := row_wordX _ _ _ x (by decide)
theorem ldB (x : Nibble) : Statement (.ldB x) := row_wordX _ _ _ x (by decide)
theorem storeRegs (x : Nibble) : Statement (.storeRegs x) := row_wordX _ _ _ x (by decide)
theorem loadRegs (x : Nibble) : Statement (.loadRegs x) := row_wordX _ _ _ x (by decide)

end Sys2Proof.Laws.EncodesInRow
end

