-- ==== Sys2Proof/Laws/Step.lean ====
section
/-! SUPPORT. What a step, a turn and an engine step can be, said once. -/

namespace Sys2Proof.Machine

theorem step_engine {s : State} (h : s.agenda = []) : step s = engineStep s := by
  unfold step; rw [h]

theorem step_turn {s : State} {t : Turn} {rest : List Turn} (h : s.agenda = t :: rest) :
    step s = takeTurn t (s.setAgenda rest) := by
  unfold step; rw [h]

/-- The engine's explicit turn is its step without that turn on the agenda. -/
theorem step_engineTurn {s : State} {rest : List Turn} (h : s.agenda = .engine :: rest) :
    step s = engineStep (s.setAgenda rest) := step_turn h

/-- The fetch does not look at the agenda. -/
@[simp] theorem State.fetch_setAgenda (s : State) (ts : List Turn) : (s.setAgenda ts).fetch = s.fetch := rfl

/-- The fetch completes exactly when PC is at most 0xFFE, and answers the word there (30_encoding.md R71). -/
theorem State.fetch_eq_some {s : State} {w : Word} :
    s.fetch = some w ↔ s.pc.toNat ≤ 0xFFE ∧ w = s.mem.readWord s.pc.toNat := by
  unfold State.fetch
  split
  · next a h =>
    have := rangeError_eq_some.mp h
    simp only [reduceCtorEq, false_iff, not_and]
    omega
  · next h =>
    have := rangeError_eq_none.mp h
    simp only [Option.some.injEq]
    constructor
    · rintro rfl; exact ⟨by omega, rfl⟩
    · rintro ⟨-, rfl⟩; rfl

theorem State.fetch_eq_none {s : State} : s.fetch = none ↔ 0xFFF ≤ s.pc.toNat := by
  unfold State.fetch
  split
  · next a h =>
    have := rangeError_eq_some.mp h
    simp only [true_iff]
    omega
  · next h =>
    have := rangeError_eq_none.mp h
    simp only [reduceCtorEq, false_iff]
    omega

/-- What an engine step can be: stopped by the halt, an error of the fetch, an error of the decoder, or the decoded
instruction (30_encoding.md R70). -/
theorem engineStep_cases (s : State) :
    (s.status = .halted ∧ engineStep s = .fault .halted) ∨
    (s.status = .run ∧ 0xFFF ≤ s.pc.toNat ∧
      engineStep s = .next (s.raise .outOfRange 0#16 (max s.pc.toNat 4096))) ∨
    (∃ w e, s.status = .run ∧ s.fetch = some w ∧ decode w = .error e ∧
      engineStep s = .next (s.raise .illegalOpcode w 0)) ∨
    (∃ w i, s.status = .run ∧ s.fetch = some w ∧ decode w = .ok i ∧ engineStep s = exec i s) := by
  unfold engineStep
  cases hs : s.status with
  | halted => exact .inl ⟨rfl, rfl⟩
  | run =>
    refine .inr ?_
    cases hf : s.fetch with
    | none => exact .inl ⟨rfl, State.fetch_eq_none.mp hf, rfl⟩
    | some w =>
      refine .inr ?_
      cases hd : decode w with
      | error e => exact .inl ⟨w, e, rfl, rfl, hd, by simp only [hd]⟩
      | ok i => exact .inr ⟨w, i, rfl, rfl, hd, by simp only [hd]⟩

end Sys2Proof.Machine
end

