-- ==== Sys2Proof/Tests/Slice0.lean ====
section
/-! SUPPORT. Tests. Expected results come from spec/95_test_vectors.md (the group is named) or from the rule named. Each
runs one instruction or one step. The witnesses at the end show, for each statement with hypotheses, a state and operands
that meet them together. -/

open Sys2Proof Sys2Proof.Machine

namespace Sys2Proof.Tests

/-- The next state, if there is one. -/
def nextOf : Host.Outcome State Fault Refusal → Option State
  | .next t => some t
  | _ => none

/-- Is there a next state? -/
def isNext : Host.Outcome State Fault Refusal → Bool
  | .next _ => true
  | _ => false

/-- The reset state with some registers written. -/
def regs (l : List (Nibble × Byte)) : State := l.foldl (fun s p => s.setV p.1 p.2) State.reset

/-- A state with PC and SP set. -/
def atPc (pc : Word) (s : State) : State := s.setPc pc

/-- The bytes written from an address on. -/
def withBytes (a : Nat) (bs : List Byte) (s : State) : State := s.setMem (s.mem.writeRun a bs)

/-- The fault record and STATUS. -/
def record (t : State) : Status × BitVec 3 × Word × Word × BitVec 17 :=
  (t.status, t.errCause, t.errInstr, t.errPc, t.errAddr)

/-! ### Well-formedness -/

/-- 70_reset_and_hazards.md R232: one byte too many is refused, whatever the bytes. -/
theorem test_wellFormed_refuses_3585 (b : Byte) : imageFits (List.replicate 3585 b) = false := by
  unfold imageFits
  rw [List.length_replicate]
  decide

/-- 70_reset_and_hazards.md R232: the bound is inclusive; the empty image fits. -/
theorem test_wellFormed_accepts_3584 (b : Byte) : imageFits (List.replicate 3584 b) = true ∧ imageFits [] = true := by
  unfold imageFits
  rw [List.length_replicate]
  decide

/-- 30_encoding.md R74: no operand value is ill formed, at both ends of every field. -/
theorem test_wellFormed_operands :
    (Instr.drw 0#4 0#4 0#4).wellFormed = true ∧ (Instr.drw 15#4 15#4 15#4).wellFormed = true := by decide

/-! ### Decoding: one word for every constructor, written out from 30_encoding.md R80 -/

theorem test_decode_control :
    decode 0b0000000011101110#16 = .ok .ret ∧ decode 0b0001001000110100#16 = .ok (.jp 0x234#12) ∧
    decode 0b0010001000001010#16 = .ok (.call 0x20A#12) ∧ decode 0b0011000100000000#16 = .ok (.seImm 1#4 0#8) ∧
    decode 0b0100001100001000#16 = .ok (.sneImm 3#4 8#8) ∧ decode 0b0101001000110000#16 = .ok (.seReg 2#4 3#4) ∧
    decode 0b1001001000110000#16 = .ok (.sneReg 2#4 3#4) ∧ decode 0b1011001100000000#16 = .ok (.jpV0 0x300#12) := by
  decide

theorem test_decode_load_alu :
    decode 0b0110000011101010#16 = .ok (.ldImm 0#4 0xEA#8) ∧ decode 0b0111000111111111#16 = .ok (.addImm 1#4 0xFF#8) ∧
    decode 0b1000000100100000#16 = .ok (.ldReg 1#4 2#4) ∧ decode 0b1000000100100001#16 = .ok (.orReg 1#4 2#4) ∧
    decode 0b1000000100100010#16 = .ok (.andReg 1#4 2#4) ∧ decode 0b1000000100100011#16 = .ok (.xorReg 1#4 2#4) ∧
    decode 0b1000000100100100#16 = .ok (.addReg 1#4 2#4) ∧ decode 0b1000000100100101#16 = .ok (.subReg 1#4 2#4) ∧
    decode 0b1000000100100110#16 = .ok (.shr 1#4 2#4) ∧ decode 0b1000000100100111#16 = .ok (.subnReg 1#4 2#4) ∧
    decode 0b1000000100101110#16 = .ok (.shl 1#4 2#4) ∧ decode 0b1100001100001111#16 = .ok (.rnd 3#4 0x0F#8) := by
  decide

theorem test_decode_index_memory :
    decode 0b1010001100000000#16 = .ok (.ldI 0x300#12) ∧ decode 0b1111001000011110#16 = .ok (.addI 2#4) ∧
    decode 0b1111000000101001#16 = .ok (.ldF 0#4) ∧ decode 0b1111000000110011#16 = .ok (.ldB 0#4) ∧
    decode 0b1111000101010101#16 = .ok (.storeRegs 1#4) ∧ decode 0b1111001001100101#16 = .ok (.loadRegs 2#4) := by
  decide

theorem test_decode_bridge_timers :
    decode 0b0000000011100000#16 = .ok .cls ∧ decode 0b1101000100100101#16 = .ok (.drw 1#4 2#4 5#4) ∧
    decode 0b1110010010011110#16 = .ok (.skp 4#4) ∧ decode 0b1110010010100001#16 = .ok (.sknp 4#4) ∧
    decode 0b1111001100001010#16 = .ok (.ldVxK 3#4) ∧ decode 0b1111010100000111#16 = .ok (.ldVxDt 5#4) ∧
    decode 0b1111010100010101#16 = .ok (.ldDtVx 5#4) ∧ decode 0b1111001000011000#16 = .ok (.ldStVx 2#4) := by
  decide

/-- 95_test_vectors.md 2.7: illegal words of every family. -/
theorem test_decode_illegal :
    ([0x0000, 0x00E1, 0x00FF, 0x00FD, 0x00C1, 0x0123, 0x01E0, 0x5121, 0x512F, 0x9121, 0x8128, 0x812D, 0x812F, 0xE000, 0xE09F,
      0xE1A2, 0xF000, 0xF101, 0xF11F, 0xF130, 0xF175, 0xF185, 0xF1FF] : List Word).all
      (fun w => decide (decode w = .error (.illegalOpcode w))) = true := by decide

/-- 95_test_vectors.md 2.7: their nearest legal neighbours decode, as table words and through the bytes. -/
theorem test_decode_legal_neighbours :
    ([0x00E0, 0x00EE, 0x5120, 0x9120, 0x8127, 0x812E, 0xE09E, 0xE1A1, 0xF107, 0xF10A, 0xF115, 0xF118, 0xF11E, 0xF129, 0xF133,
      0xF155, 0xF165] : List Nat).all (fun w => (decodeTableWord 16 w).isSome) = true := by decide

/-- 20_memory.md R43: the byte at the lower address is the high byte; the rest of the bytes is left over. -/
theorem test_decodeBytes_big_endian :
    decodeBytes [0x12#8, 0x34#8, 0x56#8] = .ok (.jp 0x234#12, [0x56#8]) ∧ decodeBytes [0x12#8] = .error .truncated := by
  decide

/-- Every constructor's own word encodes back (30_encoding.md R80; the words of the four tests above). -/
theorem test_encode_words :
    encode .cls = 0x00E0#16 ∧ encode (.call 0x20A#12) = 0x220A#16 ∧ encode (.sneImm 3#4 8#8) = 0x4308#16 ∧
    encode (.shl 1#4 2#4) = 0x812E#16 ∧ encode (.drw 1#4 2#4 5#4) = 0xD125#16 ∧ encode (.loadRegs 2#4) = 0xF265#16 := by
  decide

/-! ### A word of every row runs as the first instruction after reset -/

theorem test_first_step_runs :
    ([0x00E0, 0x00EE, 0x1234, 0x220A, 0x3100, 0x4308, 0x5230, 0x60EA, 0x71FF, 0x8120, 0x8121, 0x8122, 0x8123, 0x8124, 0x8125,
      0x8126, 0x8127] : List Nat).all (fun w => isNext (step (State.reset.withFetchWord 16 w))) = true := by decide

theorem test_first_step_runs_rest :
    ([0x812E, 0x9230, 0xA300, 0xB300, 0xC30F, 0xD125, 0xE49E, 0xE4A1, 0xF507, 0xF30A, 0xF515, 0xF218, 0xF21E, 0xF029, 0xF033,
      0xF155, 0xF265] : List Nat).all (fun w => isNext (step (State.reset.withFetchWord 16 w))) = true := by decide

/-- 95_test_vectors.md S2, first step, through fetch and decode. -/
theorem test_step_ldImm :
    (nextOf (step (State.reset.withFetchWord 16 0x60EA))).map (fun t => (t.getV 0#4, t.pc)) = some (0xEA#8, 0x202#16) := by
  decide

/-- 95_test_vectors.md 2.8: the empty image halts in its first step. -/
theorem test_step_empty_image :
    (nextOf (step State.reset)).map (fun t => (record t, t.pc)) =
      some ((.halted, 5#3, 0#16, 0x200#16, 0#17), 0x200#16) := by decide

/-- 95_test_vectors.md 2.1 (`1FFF`, the step after): the fetch straddles the top. -/
theorem test_step_fetch_at_top :
    (nextOf (step (atPc 0xFFF#16 State.reset))).map record = some (.halted, 2#3, 0#16, 0xFFF#16, 0x1000#17) := by decide

/-- 95_test_vectors.md 2.1 (`BFFF`, the step after): PC is not masked to 12 bits. -/
theorem test_step_fetch_beyond_top :
    (nextOf (step (atPc 0x10FE#16 State.reset))).map record = some (.halted, 2#3, 0#16, 0x10FE#16, 0x10FE#17) := by decide

/-- 95_test_vectors.md 2.7: the raw word and its address are reported. -/
theorem test_step_illegal :
    (nextOf (step (withBytes 0x2A0 [0xF1#8, 0x85#8] (atPc 0x2A0#16 State.reset)))).map record =
      some (.halted, 5#3, 0xF185#16, 0x2A0#16, 0#17) := by decide

/-- 10_state.md R17: an odd PC fetches like any other. -/
theorem test_step_odd_pc :
    (nextOf (step (withBytes 0x301 [0x61#8, 0x07#8] (atPc 0x301#16 State.reset)))).map (fun t => (t.getV 1#4, t.pc)) =
      some (7#8, 0x303#16) := by decide

/-! ### Control transfer: 95_test_vectors.md 2.1 -/

/-- A stack of two return addresses. -/
def twoCalls : State := { State.reset with sp := 2#5, stack := (State.reset.stack.set 0 0x204#16).set 1 0x30A#16, pc := 0x400#16 }

/-- A full stack. -/
def fullStack : State := { State.reset with sp := 16#5, pc := 0x250#16 }

theorem test_ret : (nextOf (exec .ret twoCalls)).map (fun t => (t.sp, t.pc, t.stack[1])) =
    some (1#5, 0x30C#16, 0x30A#16) := by decide

theorem test_ret_underflow : (nextOf (exec .ret (atPc 0x20C#16 State.reset))).map (fun t => (record t, t.pc, t.sp)) =
    some ((.halted, 4#3, 0x00EE#16, 0x20C#16, 0#17), 0x20C#16, 0#5) := by decide

theorem test_jp : (nextOf (exec (.jp 0x234#12) State.reset)).map (·.pc) = some 0x234#16 := by decide

theorem test_call_last_slot : (nextOf (exec (.call 0x300#12) { fullStack with sp := 15#5 })).map
    (fun t => (t.sp, t.pc, t.stack[15])) = some (16#5, 0x300#16, 0x250#16) := by decide

theorem test_call_overflow : (nextOf (exec (.call 0x300#12) fullStack)).map (fun t => (record t, t.pc, t.sp)) =
    some ((.halted, 3#3, 0x2300#16, 0x250#16, 0#17), 0x250#16, 16#5) := by decide

theorem test_seImm_taken : (nextOf (exec (.seImm 1#4 0#8) (atPc 0x208#16 (regs [(1, 0)])))).map (·.pc) = some 0x20C#16 := by
  decide

theorem test_seImm_not_taken : (nextOf (exec (.seImm 1#4 0#8) (atPc 0x208#16 (regs [(1, 4)])))).map (·.pc) =
    some 0x20A#16 := by decide

theorem test_sneImm_taken : (nextOf (exec (.sneImm 3#4 8#8) (atPc 0x300#16 (regs [(3, 7)])))).map (·.pc) = some 0x304#16 := by
  decide

theorem test_sneImm_not_taken : (nextOf (exec (.sneImm 3#4 8#8) (atPc 0x300#16 (regs [(3, 8)])))).map (·.pc) =
    some 0x302#16 := by decide

theorem test_seReg_taken : (nextOf (exec (.seReg 2#4 3#4) (regs [(2, 9), (3, 9)]))).map (·.pc) = some 0x204#16 := by decide

theorem test_seReg_not_taken : (nextOf (exec (.seReg 2#4 3#4) (regs [(2, 9), (3, 1)]))).map (·.pc) = some 0x202#16 := by decide

theorem test_sneReg_taken : (nextOf (exec (.sneReg 2#4 3#4) (regs [(2, 9), (3, 1)]))).map (·.pc) = some 0x204#16 := by decide

theorem test_sneReg_same : (nextOf (exec (.sneReg 2#4 2#4) (regs [(2, 9)]))).map (·.pc) = some 0x202#16 := by decide

theorem test_jpV0 : (nextOf (exec (.jpV0 0x300#12) (regs [(0, 4), (3, 9)]))).map (·.pc) = some 0x304#16 := by decide

theorem test_jpV0_not_masked : (nextOf (exec (.jpV0 0xFFF#12) (regs [(0, 0xFF), (15, 7)]))).map (fun t => (t.pc, t.getV 15#4)) =
    some (0x10FE#16, 7#8) := by decide

/-! ### Load and ALU: 95_test_vectors.md 2.2 -/

/-- What an ALU test looks at: V1, VF, PC. -/
def v1VfPc (t : State) : Byte × Byte × Word := (t.getV 1#4, t.getV 15#4, t.pc)

theorem test_ldImm_vf : (nextOf (exec (.ldImm 15#4 7#8) State.reset)).map (·.getV 15#4) = some 7#8 := by decide

theorem test_ldImm_top_pc : (nextOf (exec (.ldImm 0#4 0#8) (atPc 0xFFE#16 State.reset))).map (·.pc) = some 0x1000#16 := by
  decide

theorem test_addImm : (nextOf (exec (.addImm 1#4 0xFF#8) (regs [(1, 5), (15, 9)]))).map v1VfPc = some (4#8, 9#8, 0x202#16) := by
  decide

theorem test_addImm_vf : (nextOf (exec (.addImm 15#4 1#8) (regs [(15, 0xFF)]))).map (·.getV 15#4) = some 0#8 := by decide

theorem test_ldReg : (nextOf (exec (.ldReg 1#4 2#4) (regs [(1, 1), (2, 0x7C)]))).map v1VfPc = some (0x7C#8, 0#8, 0x202#16) := by
  decide

theorem test_orReg : (nextOf (exec (.orReg 1#4 2#4) (regs [(1, 0x0F), (2, 0xF0), (15, 7)]))).map v1VfPc =
    some (0xFF#8, 7#8, 0x202#16) := by decide

theorem test_andReg : (nextOf (exec (.andReg 1#4 2#4) (regs [(1, 0x3C), (2, 0x0F), (15, 7)]))).map v1VfPc =
    some (0x0C#8, 7#8, 0x202#16) := by decide

theorem test_xorReg : (nextOf (exec (.xorReg 1#4 2#4) (regs [(1, 0xFF), (2, 0x0F), (15, 7)]))).map v1VfPc =
    some (0xF0#8, 7#8, 0x202#16) := by decide

theorem test_xorReg_same : (nextOf (exec (.xorReg 1#4 1#4) (regs [(1, 0xAB)]))).map (·.getV 1#4) = some 0#8 := by decide

theorem test_addReg_carry : (nextOf (exec (.addReg 1#4 2#4) (regs [(1, 0xFA), (2, 0x0A)]))).map v1VfPc =
    some (4#8, 1#8, 0x202#16) := by decide

theorem test_addReg_into_vf : (nextOf (exec (.addReg 15#4 1#4) (regs [(15, 0xC8), (1, 0x64)]))).map (·.getV 15#4) =
    some 1#8 := by decide

theorem test_subReg_borrow : (nextOf (exec (.subReg 1#4 2#4) (regs [(1, 3), (2, 10)]))).map v1VfPc =
    some (0xF9#8, 0#8, 0x202#16) := by decide

theorem test_subReg_equal : (nextOf (exec (.subReg 1#4 2#4) (regs [(1, 7), (2, 7)]))).map v1VfPc =
    some (0#8, 1#8, 0x202#16) := by decide

theorem test_shr_ignores_y : (nextOf (exec (.shr 1#4 2#4) (regs [(1, 5), (2, 0xFF)]))).map (fun t => (v1VfPc t, t.getV 2#4)) =
    some ((2#8, 1#8, 0x202#16), 0xFF#8) := by decide

theorem test_shr_vf : (nextOf (exec (.shr 15#4 0#4) (regs [(15, 2)]))).map (·.getV 15#4) = some 0#8 := by decide

theorem test_subnReg : (nextOf (exec (.subnReg 1#4 2#4) (regs [(1, 3), (2, 10)]))).map v1VfPc =
    some (7#8, 1#8, 0x202#16) := by decide

theorem test_subnReg_vf : (nextOf (exec (.subnReg 15#4 2#4) (regs [(15, 1), (2, 0)]))).map (·.getV 15#4) = some 0#8 := by decide

theorem test_shl_ignores_y : (nextOf (exec (.shl 1#4 2#4) (regs [(1, 0x81), (2, 0x55)]))).map (fun t => (v1VfPc t, t.getV 2#4)) =
    some ((2#8, 1#8, 0x202#16), 0x55#8) := by decide

theorem test_shl_vf : (nextOf (exec (.shl 15#4 0#4) (regs [(15, 0x80)]))).map (·.getV 15#4) = some 1#8 := by decide

/-- `C300`: 0 for every draw. -/
theorem test_rnd_mask_zero : ∃ t, exec (.rnd 3#4 0#8) State.reset = .next t ∧ t.getV 3#4 = 0#8 ∧ t.pc = 0x202#16 :=
  ⟨_, rfl, by simp [State.getV_putResult], rfl⟩

/-- `C3FF`: the draw itself, and the next execution takes the next draw. -/
theorem test_rnd_mask_all : ∃ t, exec (.rnd 3#4 0xFF#8) State.reset = .next t ∧ t.getV 3#4 = Config.randomByte 0 ∧
    t.draws = 1 :=
  ⟨_, rfl, by rw [State.getV_putResult, if_pos rfl]; exact BitVec.and_allOnes (x := Config.randomByte 0), rfl⟩

/-! ### Index and memory: 95_test_vectors.md 2.3 -/

/-- The bytes at 0x300, 0x301, 0x302, and I. -/
def at300 (t : State) : List Byte × Word := (t.mem.readRun 0x300 3, t.i)

theorem test_ldI : (nextOf (exec (.ldI 0xFFF#12) State.reset)).map (·.i) = some 0xFFF#16 := by decide

theorem test_addI_not_masked : (nextOf (exec (.addI 2#4) ((regs [(2, 1), (15, 7)]).setI 0xFFF#16))).map
    (fun t => (t.i, t.getV 15#4)) = some (0x1000#16, 7#8) := by decide

theorem test_addI_wraps : (nextOf (exec (.addI 2#4) ((regs [(2, 2)]).setI 0xFFFF#16))).map (·.i) = some 1#16 := by decide

theorem test_ldF_low_nibble : (nextOf (exec (.ldF 0#4) (regs [(0, 0xEA)]))).map (·.i) = some 0x32#16 := by decide

theorem test_ldF_last_glyph : (nextOf (exec (.ldF 0#4) (regs [(0, 0x0F)]))).map (·.i) = some 0x4B#16 := by decide

theorem test_ldB : (nextOf (exec (.ldB 0#4) ((regs [(0, 234)]).setI 0x300#16))).map at300 = some ([2#8, 3#8, 4#8], 0x300#16) := by
  decide

theorem test_ldB_beyond_top : (nextOf (exec (.ldB 0#4) ((regs [(0, 255)]).setI 0xFFE#16))).map
    (fun t => (record t, t.mem.readRun 0xFFE 2)) =
      some ((.halted, 2#3, 0xF033#16, 0x200#16, 0x1000#17), [0#8, 0#8]) := by decide

theorem test_storeRegs : (nextOf (exec (.storeRegs 1#4) ((regs [(0, 0x12), (1, 0x0A), (2, 0x99)]).setI 0x300#16))).map at300 =
    some ([0x12#8, 0x0A#8, 0#8], 0x300#16) := by decide

theorem test_storeRegs_beyond_top : (nextOf (exec (.storeRegs 15#4) ((regs [(0, 1)]).setI 0xFF1#16))).map
    (fun t => (record t, t.mem.read 0xFF1)) = some ((.halted, 2#3, 0xFF55#16, 0x200#16, 0x1000#17), 0#8) := by decide

/-- `FF65` with I = 0: the font bytes of 70_reset_and_hazards.md R233. -/
theorem test_loadRegs_font : (nextOf (exec (.loadRegs 15#4) State.reset)).map (fun t => t.v.toList) =
    some [0xF0, 0x90, 0x90, 0x90, 0xF0, 0x20, 0x60, 0x20, 0x20, 0x70, 0xF0, 0x10, 0xF0, 0x80, 0xF0, 0xF0] := by decide

theorem test_loadRegs_partial : (nextOf (exec (.loadRegs 2#4) (withBytes 0x300 [2, 3, 4, 5] ((regs [(3, 0)]).setI 0x300#16)))).map
    (fun t => (t.v.toList.take 4, t.i)) = some ([2, 3, 4, 0], 0x300#16) := by decide

/-! ### Display: 95_test_vectors.md 2.4 -/

/-- The set pixels of one row. -/
def rowPixels (r : Nat) (t : State) : List Nat := (List.range 64).filter (fun c => t.fb.pixel r c)

theorem test_cls : (nextOf (exec .cls ((regs [(15, 9)]).setFb (Display.cleared.flip 3 4)))).map
    (fun t => (rowPixels 3 t, t.getV 15#4, t.pc)) = some ([], 9#8, 0x202#16) := by decide

/-- `D121` at column 60 of row 31: it wraps in x. -/
theorem test_drw_wraps : (nextOf (exec (.drw 1#4 2#4 1#4) (withBytes 0x300 [0xFF] ((regs [(1, 60), (2, 31)]).setI 0x300#16)))).map
    (fun t => (rowPixels 31 t, t.getV 15#4, t.pc)) = some ([0, 1, 2, 3, 60, 61, 62, 63], 0#8, 0x202#16) := by decide

/-- `D001 D001`: the second draw collides and empties the display. -/
theorem test_drw_collides : (nextOf (exec (.drw 0#4 0#4 1#4) (withBytes 0x300 [0xC0] ((State.reset.setI 0x300#16).setFb
    ((Display.cleared.flip 0 0).flip 0 1))))).map (fun t => (rowPixels 0 t, t.getV 15#4)) = some ([], 1#8) := by decide

/-! ### Keypad and timers: 95_test_vectors.md 2.5, 2.6 -/

theorem test_skp : ∃ t, exec (.skp 4#4) (atPc 0x210#16 (regs [(4, 0x0A)])) = .next t ∧
    t.pc = if Config.keyIsDown 0 0xA#4 then 0x214#16 else 0x212#16 := by
  refine ⟨_, rfl, ?_⟩
  have h : (regs [(4, 0x0A)]).getVNibble 4#4 = 0xA#4 := by decide
  have h' : (atPc 0x210#16 (regs [(4, 0x0A)])).keyAnswer 4#4 = Config.keyIsDown 0 0xA#4 := by
    rw [← h]; rfl
  rw [h']
  cases Config.keyIsDown 0 0xA#4 <;> decide

theorem test_sknp : ∃ t, exec (.sknp 4#4) (atPc 0x210#16 (regs [(4, 0x1A)])) = .next t ∧
    t.pc = if Config.keyIsDown 0 0xA#4 then 0x212#16 else 0x214#16 := by
  refine ⟨_, rfl, ?_⟩
  have h : (regs [(4, 0x1A)]).getVNibble 4#4 = 0xA#4 := by decide
  have h' : (atPc 0x210#16 (regs [(4, 0x1A)])).keyAnswer 4#4 = Config.keyIsDown 0 0xA#4 := by
    rw [← h]; rfl
  rw [h']
  cases Config.keyIsDown 0 0xA#4 <;> decide

/-- A state waiting in `F30A` at 0x220. -/
def waiting : State := withBytes 0x220 [0xF3, 0x0A] (atPc 0x220#16 State.reset)

/-- No key event: nothing changes. -/
theorem test_key_wait : nextOf (step waiting) = some waiting := by decide

/-- The host delivers key 7. -/
theorem test_key_event : (nextOf (step { waiting with agenda := [.key 7#4] })).map (fun t => (t.getV 3#4, t.pc, t.keyPort)) =
    some (7#8, 0x222#16, none) := by decide

theorem test_ldVxDt : (nextOf (exec (.ldVxDt 5#4) (State.reset.setDt 0x2C#8))).map (fun t => (t.getV 5#4, t.dt, t.pc)) =
    some (0x2C#8, 0x2C#8, 0x202#16) := by decide

theorem test_ldDtVx : (nextOf (exec (.ldDtVx 5#4) (regs [(5, 60)]))).map (fun t => (t.dt, t.st)) = some (60#8, 0#8) := by decide

theorem test_ldStVx : (nextOf (exec (.ldStVx 2#4) (regs [(2, 4)]))).map (fun t => (t.st, t.dt, t.soundActive)) =
    some (4#8, 0#8, true) := by decide

theorem test_tick : (nextOf (step { (State.reset.setDt 3#8).setSt 1#8 with agenda := [.tick] })).map
    (fun t => (t.dt, t.st, t.soundActive)) = some (2#8, 0#8, false) := by decide

theorem test_tick_floor_and_halted :
    (nextOf (step { State.reset.setSt 255#8 with agenda := [.tick], status := .halted })).map (fun t => (t.dt, t.st)) =
      some (0#8, 254#8) := by decide

/-- 95_test_vectors.md 2.8: the bytes of the image, and PC. -/
theorem test_reset_turn : (nextOf (step { fullStack with agenda := [.reset [0x12, 0x00]], status := .halted })).map
    (fun t => (t.mem.readRun 0x200 3, t.pc, t.status, t.sp)) = some ([0x12, 0x00, 0x00], 0x200#16, .run, 0#5) := by decide

/-- 60_exceptions.md R209: a halted engine has no step. -/
theorem test_halted_engine : step { State.reset with status := .halted } = .fault .halted := rfl

/-! ### Witnesses: for each statement with hypotheses, a state and operands that meet them, at a boundary where there is one -/

theorem witness_DecodeOfEncodeIsTheInstruction : ∃ i : Instr, i.wellFormed = true := ⟨.drw 15#4 15#4 15#4, rfl⟩

theorem witness_DecodedWordIsTheEncoding : ∃ w i, decode w = .ok i ∧ encode i = w := ⟨0x8FF6#16, .shr 15#4 15#4, by decide⟩

theorem witness_DecodeFollowsTheOpcodeMap :
    (∃ r ∈ opcodeRows, rowMatches r 0x8127#16 = true) ∧ (∀ r ∈ opcodeRows, rowMatches r 0x0000#16 = false) := by decide

/-- PC at the last fetchable address, with the engine's turn implicit. -/
def lastFetch : State := withBytes 0xFFE [0x60, 0x05] (atPc 0xFFE#16 State.reset)

theorem witness_StepRunsTheDecodedInstruction : lastFetch.status = .run ∧ lastFetch.pc.toNat ≤ 0xFFE ∧
    decode (lastFetch.mem.read lastFetch.pc.toNat ++ lastFetch.mem.read (lastFetch.pc.toNat + 1)) = .ok (.ldImm 0#4 5#8) ∧
    (Instr.ldImm 0#4 5#8).wellFormed = true ∧ lastFetch.agenda = [] := by decide

theorem witness_StepRunsTheDecodedInstruction_turn :
    (lastFetch.setAgenda [.engine, .tick]).status = .run ∧ (lastFetch.setAgenda [.engine, .tick]).pc.toNat ≤ 0xFFE ∧
    decode ((lastFetch.setAgenda [.engine, .tick]).mem.read 0xFFE ++ (lastFetch.setAgenda [.engine, .tick]).mem.read 0xFFF) =
      .ok (.ldImm 0#4 5#8) ∧ (lastFetch.setAgenda [.engine, .tick]).agenda = .engine :: [.tick] := by decide

theorem witness_FetchBeyondMemoryHalts : ∃ s : State, s.status = .run ∧ s.agenda = [] ∧ 4096 ≤ s.pc.toNat + 1 :=
  ⟨atPc 0xFFF#16 State.reset, by decide⟩

theorem witness_FetchBeyondMemoryHalts_turn : ∃ (s : State) (rest : List Turn), s.status = .run ∧ 4096 ≤ s.pc.toNat + 1 ∧
    s.agenda = .engine :: rest :=
  ⟨(atPc 0xFFF#16 State.reset).setAgenda [.engine, .tick], [.tick], by decide⟩

theorem witness_IllegalWordHalts : ∃ s : State, s.status = .run ∧ s.agenda = [] ∧ s.pc.toNat ≤ 0xFFE ∧
    ∀ r ∈ opcodeRows, rowMatches r (s.mem.read s.pc.toNat ++ s.mem.read (s.pc.toNat + 1)) = false :=
  ⟨State.reset, by decide⟩

theorem witness_IllegalWordHalts_turn : ∃ (s : State) (rest : List Turn), s.status = .run ∧ s.pc.toNat ≤ 0xFFE ∧
    (∀ r ∈ opcodeRows, rowMatches r (s.mem.read s.pc.toNat ++ s.mem.read (s.pc.toNat + 1)) = false) ∧
    s.agenda = .engine :: rest :=
  ⟨(atPc 0xFFE#16 State.reset).setAgenda [.engine, .tick], [.tick], by decide⟩

/-- A halted state. -/
def stopped : State := State.reset.raise .illegalOpcode 0#16 0

theorem witness_HaltedEngineHasNoStep : stopped.status = .halted ∧ stopped.agenda = [] ∧
    ∃ rest, (stopped.setAgenda [.engine]).agenda = .engine :: rest := ⟨rfl, rfl, [], rfl⟩

theorem witness_OnlyResetLeavesHalted :
    (∃ s t : State, s.status = .halted ∧ step s = .next t ∧ ∀ rom rest, s.agenda ≠ .reset rom :: rest) ∧
    (∃ s t : State, s.status = .halted ∧ step s = .next t ∧ ∃ rom rest, s.agenda = .reset rom :: rest) :=
  ⟨⟨stopped.setAgenda [.tick], _, rfl, rfl, by simp⟩, ⟨stopped.setAgenda [.reset []], _, rfl, rfl, [], [], rfl⟩⟩

theorem witness_TrapsArePrecise : ∃ s t : State, s.status = .run ∧ step s = .next t ∧ t.status = .halted :=
  ⟨State.reset, _, rfl, rfl, rfl⟩

/-- A state whose I is one byte short of the top. -/
def iAtTop : State := State.reset.setI 0xFFF#16

theorem witness_ExecuteErrorsAreComplete :
    (∃ t, exec .ret State.reset = .next t ∧ t.status = .halted) ∧
    (∃ t, exec (.call 0#12) fullStack = .next t ∧ t.status = .halted) ∧
    (∃ t, exec (.drw 0#4 0#4 2#4) iAtTop = .next t ∧ t.status = .halted) ∧
    (∃ t, exec (.ldB 0#4) iAtTop = .next t ∧ t.status = .halted) ∧
    (∃ t, exec (.storeRegs 1#4) iAtTop = .next t ∧ t.status = .halted) ∧
    (∃ t, exec (.loadRegs 0#4) iAtTop = .next t ∧ t.status = .run) :=
  ⟨⟨_, rfl, rfl⟩, ⟨_, rfl, rfl⟩, ⟨_, rfl, rfl⟩, ⟨_, rfl, rfl⟩, ⟨_, rfl, rfl⟩, ⟨_, rfl, rfl⟩⟩

theorem witness_ErrInstrIsTheFetchedWord : ∃ (s t : State) (w : Word) (i : Instr), s.status = .run ∧ s.fetch = some w ∧
    decode w = .ok i ∧ exec i s = .next t ∧ t.status = .halted :=
  ⟨withBytes 0x200 [0x00, 0xEE] State.reset, _, 0x00EE#16, .ret, rfl, by decide, by decide, rfl, rfl⟩

theorem witness_EveryStepKeepsTheInvariant : ∃ s t : State, s.Inv ∧ step s = .next t := ⟨lastFetch, _, by decide, rfl⟩

theorem witness_WhoWritesWhat : ∃ (i : Instr) (s t : State), exec i s = .next t ∧ t.i ≠ s.i :=
  ⟨.ldI 1#12, State.reset, _, rfl, by decide⟩

theorem witness_WhoWritesVF : ∃ (i : Instr) (s t : State), exec i s = .next t ∧ t.getV 15#4 ≠ s.getV 15#4 :=
  ⟨.ldImm 15#4 1#8, State.reset, _, rfl, by decide⟩

theorem witness_TickDecrementsBothTimers : ∃ (s : State) (rest : List Turn), s.agenda = .tick :: rest :=
  ⟨State.reset.setAgenda [.tick], [], rfl⟩

theorem witness_TickCommutesWithOtherInstructions : ∃ (i : Instr) (s t : State),
    (∀ x, i ≠ .ldVxDt x ∧ i ≠ .ldDtVx x ∧ i ≠ .ldStVx x) ∧ exec i s = .next t :=
  ⟨.cls, State.reset, _, by simp, rfl⟩

theorem witness_KeyEventCompletesTheWait : ∃ (s : State) (k x : Nibble) (rest : List Turn) (w : Word),
    s.agenda = .key k :: rest ∧ s.status = .run ∧ s.fetch = some w ∧ decode w = .ok (.ldVxK x) :=
  ⟨waiting.setAgenda [.key 15#4], 15#4, 3#4, [], 0xF30A#16, by decide⟩

theorem witness_KeyEventIsUnseenOtherwise :
    (stopped.status = .halted) ∧ ((atPc 0xFFF#16 State.reset).fetch = none) ∧
    (∃ w e, State.reset.fetch = some w ∧ decode w = .error e) ∧
    (∃ w i, lastFetch.fetch = some w ∧ decode w = .ok i ∧ ∀ x, i ≠ .ldVxK x) ∧
    ∀ s : State, (s.setAgenda [.key 0#4]).agenda = .key 0#4 :: [] :=
  ⟨rfl, by decide, ⟨0#16, .illegalOpcode 0#16, by decide⟩, ⟨0x6005#16, .ldImm 0#4 5#8, by decide, by decide, by simp⟩,
    fun _ => rfl⟩

theorem witness_ResetLoadsTheImage : ∃ (s : State) (rom : List Byte) (rest : List Turn),
    s.agenda = .reset rom :: rest ∧ rom.length ≤ 3584 :=
  ⟨stopped.setAgenda [.reset (List.replicate 3584 1#8)], _, [], rfl, by rw [List.length_replicate]⟩

theorem witness_OversizeImageYieldsNoMachine :
    (∃ (s : State) (rom : List Byte) (rest : List Turn), s.agenda = .reset rom :: rest ∧ 3584 < rom.length) ∧
    (∃ (s : State) (rom : List Byte) (rest : List Turn), s.agenda = .reset rom :: rest ∧ rom.length ≤ 3584) :=
  ⟨⟨State.reset.setAgenda [.reset (List.replicate 3585 1#8)], _, [], rfl, by rw [List.length_replicate]; decide⟩,
    ⟨State.reset.setAgenda [.reset []], _, [], rfl, by decide⟩⟩

theorem witness_DisplayIsReadOnlyByDrw : ∃ (i : Instr) (s t : State), (∀ x y n, i ≠ .drw x y n) ∧ exec i s = .next t :=
  ⟨.cls, State.reset, _, by simp, rfl⟩

theorem witness_AgendaIsInvisibleToInstructions : ∃ (i : Instr) (s t : State), exec i s = .next t :=
  ⟨.drw 0#4 0#4 5#4, State.reset, _, rfl⟩

theorem witness_CallPushesItsAddress : { fullStack with sp := 15#5 }.sp.toNat < 16 := by decide

theorem witness_CallOverflowHalts : fullStack.sp.toNat = 16 := by decide

theorem witness_RetReturnsPastTheCall : 0 < fullStack.sp.toNat ∧ fullStack.sp.toNat ≤ 16 := by decide

theorem witness_RetUnderflowHalts : State.reset.sp = 0#5 := rfl

theorem witness_CallThenReturnComesBack : ∃ (s t u : State) (nnn : Addr), s.sp.toNat < 16 ∧ exec (.call nnn) s = .next t ∧
    u.stack = t.stack ∧ u.sp = t.sp :=
  ⟨State.reset, _, _, 0x300#12, by decide, rfl, rfl, rfl⟩

theorem witness_BcdStoresThreeDigits : (State.reset.setI 0xFFD#16).i.toNat + 2 < 4096 := by decide

theorem witness_StoreWritesRegistersFromI : (State.reset.setI 0xFF0#16).i.toNat + (15#4 : Nibble).toNat < 4096 := by decide

theorem witness_LoadReadsRegistersFromI : iAtTop.i.toNat + (0#4 : Nibble).toNat < 4096 := by decide

theorem witness_MemoryAccessBeyondTheTopHalts :
    4096 ≤ (State.reset.setI 0xFFE#16).i.toNat + 2 ∧ 4096 ≤ iAtTop.i.toNat + (1#4 : Nibble).toNat ∧
    0 < (2#4 : Nibble).toNat ∧ 4096 ≤ iAtTop.i.toNat + (2#4 : Nibble).toNat - 1 := by decide

/-- V0, V1 hold the word `6205`, I addresses the word after the one at PC. -/
def selfModifying : State := (regs [(0, 0x62), (1, 0x05)]).setI 0x202#16

theorem witness_StoredWordIsFetchedNext : ∃ (s t : State) (x r r' : Nibble) (i : Instr), s.status = .run ∧ s.agenda = [] ∧
    exec (.storeRegs x) s = .next t ∧ s.i.toNat + x.toNat < 4096 ∧ r'.toNat = r.toNat + 1 ∧ r' ≤ x ∧
    s.i.toNat + r.toNat = (s.pc.toNat + 2) % 65536 ∧ decode (s.getV r ++ s.getV r') = .ok i :=
  ⟨selfModifying, _, 1#4, 0#4, 1#4, .ldImm 2#4 5#8, rfl, rfl, rfl, by decide, by decide, by decide, by decide, by decide⟩

theorem witness_StoredWordIsFetchedNext_turn : ∃ (s t : State) (x r r' : Nibble) (i : Instr) (rest : List Turn),
    s.status = .run ∧ exec (.storeRegs x) s = .next t ∧ s.i.toNat + x.toNat < 4096 ∧ r'.toNat = r.toNat + 1 ∧ r' ≤ x ∧
    s.i.toNat + r.toNat = (s.pc.toNat + 2) % 65536 ∧ decode (s.getV r ++ s.getV r') = .ok i ∧ s.agenda = .engine :: rest :=
  ⟨selfModifying.setAgenda [.engine, .tick], _, 1#4, 0#4, 1#4, .ldImm 2#4 5#8, [.tick], rfl, rfl, by decide, by decide,
    by decide, by decide, by decide, rfl⟩

theorem witness_DrwXorsTheSprite :
    ((0#4 : Nibble) = 0#4) ∧ ((State.reset.setI 0xFF1#16).i.toNat + (15#4 : Nibble).toNat ≤ 4096) := by decide

theorem witness_DrawingTwiceRestoresTheDisplay : ∃ (s t u : State) (x y n : Nibble), x ≠ 15#4 ∧ y ≠ 15#4 ∧
    (n = 0#4 ∨ s.i.toNat + n.toNat ≤ 4096) ∧ exec (.drw x y n) s = .next t ∧ exec (.drw x y n) t = .next u :=
  ⟨State.reset, _, _, 0#4, 0#4, 5#4, by decide, by decide, by decide, rfl, rfl⟩

theorem witness_KeyWaitStoresTheKey : (∃ (s : State) (k : Nibble), s.keyPort = some k) ∧ (∃ s : State, s.keyPort = none) :=
  ⟨⟨{ State.reset with keyPort := some 15#4 }, 15#4, rfl⟩, ⟨State.reset, rfl⟩⟩

theorem witness_RegisterSkipsAdvanceByFourOrTwo : (1#4 : Nibble) ≠ 0#4 ∧ (15#4 : Nibble) ≠ 0#4 := by decide

/-- The clause on V[x] of the five flag instructions, at the register just below VF. -/
theorem witness_FlagInstructions : (14#4 : Nibble) ≠ 15#4 := by decide

/-- The ranges of ResetLoadsTheImage at their ends: last image byte, last font byte, first and last zero below the image,
first zero above an empty image. -/
theorem witness_ResetLoadsTheImage_ranges :
    3583 < (List.replicate 3584 (1#8 : Byte)).length ∧ 79 < Config.fontBytes.length ∧
    (0x50 ≤ 0x50 ∧ 0x1FF < 0x200) ∧ 0x200 + ([] : List Byte).length ≤ 0x200 :=
  ⟨by rw [List.length_replicate]; decide, by decide, by decide, by decide⟩

theorem witness_RangeCheckNamesTheLowestBadAddress :
    rangeError 0xFFF 1 = none ∧ rangeError 0xFFF 2 = some 0x1000 ∧ rangeError 0x1005 1 = some 0x1005 ∧
    rangeError 0x1005 0 = none := by decide

end Sys2Proof.Tests
end

section
/-! SUPPORT. Control transfer (40_control_transfer.md): jumps and immediate skips write PC and nothing else. -/

namespace Sys2Proof.Machine

theorem exec_jp (nnn : Addr) (s : State) : exec (.jp nnn) s = .next (s.setPc (addrOperand nnn)) := rfl

theorem exec_jpV0 (nnn : Addr) (s : State) :
    exec (.jpV0 nnn) s = .next (s.setPc (addrOperand nnn + s.getVWord 0#4)) := rfl

theorem exec_seImm (x : Nibble) (kk : Byte) (s : State) :
    exec (.seImm x kk) s = .next (s.skipIf (s.getV x == kk)) := rfl

theorem exec_sneImm (x : Nibble) (kk : Byte) (s : State) :
    exec (.sneImm x kk) s = .next (s.skipIf (s.getV x != kk)) := rfl

/-- The target of JP V0 as an integer: the sum wraps at 16 bits, not at 12 (R108, decision D30, log entry 18). -/
theorem jpV0Target_toNat (s : State) (nnn : Addr) :
    (addrOperand nnn + s.getVWord 0#4).toNat = (nnn.toNat + (s.getV 0#4).toNat) % 65536 := by
  rw [BitVec.toNat_add, addrOperand_toNat, State.getVWord_toNat]

/-- A skip moves PC by 4 or 2 as the condition its flag decides, and leaves everything else (R104). -/
theorem State.skipIf_advancesByFourOrTwo (s : State) {c : Bool} {p : Prop} [Decidable p] (h : c = true ↔ p) :
    (s.skipIf c).pc.toNat = (s.pc.toNat + if p then 4 else 2) % 65536 ∧ OnlyPcChanged s (s.skipIf c) :=
  ⟨by simp only [State.skipIf_pc_toNat, h], State.onlyPcChanged_setPc s _⟩

/-- The test of SE on bytes is equality of their values. -/
theorem byte_beq_iff_toNat_eq (a b : Byte) : (a == b) = true ↔ a.toNat = b.toNat := by
  rw [beq_iff_eq, BitVec.toNat_inj]

/-- The test of SNE on bytes is inequality of their values. -/
theorem byte_bne_iff_toNat_ne (a b : Byte) : (a != b) = true ↔ a.toNat ≠ b.toNat := by
  rw [bne_iff_ne, BitVec.toNat_ne_iff_ne]

/-- Settles O27: JP writes its zero-extended operand to PC. -/
theorem jpSetsPc : Obligations.JpSetsPc := fun s nnn =>
  ⟨_, exec_jp nnn s, addrOperand_toNat nnn, State.onlyPcChanged_setPc s _⟩

/-- Settles O28: JP V0 writes the 16-bit sum of the operand and V0 to PC. -/
theorem jpV0AddsTheRegister : Obligations.JpV0AddsTheRegister := fun s nnn =>
  ⟨_, exec_jpV0 nnn s, jpV0Target_toNat s nnn, State.onlyPcChanged_setPc s _⟩

/-- Settles O29: both immediate skips are `skipIf` on the comparison of V[x] with kk. -/
theorem immediateSkipsAdvanceByFourOrTwo : Obligations.ImmediateSkipsAdvanceByFourOrTwo := by
  constructor
  · intro s x kk
    exact ⟨_, exec_seImm x kk s, s.skipIf_advancesByFourOrTwo (byte_beq_iff_toNat_eq _ kk)⟩
  · intro s x kk
    exact ⟨_, exec_sneImm x kk s, s.skipIf_advancesByFourOrTwo (byte_bne_iff_toNat_ne _ kk)⟩

end Sys2Proof.Machine
end

section
/-! SUPPORT. Loads and the immediate add (41_load_alu.md): a result without a flag writes V[x] and PC, and nothing else. -/

namespace Sys2Proof.Machine

theorem exec_ldImm (x : Nibble) (kk : Byte) (s : State) : exec (.ldImm x kk) s = .next (s.putResult x kk) := rfl

theorem exec_addImm (x : Nibble) (kk : Byte) (s : State) :
    exec (.addImm x kk) s = .next (s.putResult x (s.getV x + kk)) := rfl

theorem exec_ldReg (x y : Nibble) (s : State) : exec (.ldReg x y) s = .next (s.putResult x (s.getV y)) := rfl

@[simp] theorem State.getV_putResult_same (s : State) (x : Nibble) (r : Byte) : (s.putResult x r).getV x = r := by
  rw [State.getV_putResult, if_pos rfl]

/-- The advance of `putResult` is of a state whose PC is still that of `s`. -/
theorem State.advancedBy2_putResult (s : State) (x : Nibble) (r : Byte) : AdvancedBy2 s (s.putResult x r) :=
  State.advancedBy2_advance (s.setV x r)

/-- Settles O36: each of the three is `putResult` of its value; the immediate add wraps as the sum of bytes does. -/
theorem loadsAndImmediateAdd : Obligations.LoadsAndImmediateAdd := by
  refine ⟨fun s x kk => ?ldImm, fun s x kk => ?addImm, fun s x y => ?ldReg⟩
  case ldImm =>
    exact ⟨_, exec_ldImm x kk s, s.getV_putResult_same x kk, s.advancedBy2_putResult x kk,
      s.onlyRegsChanged_putResult x kk⟩
  case addImm =>
    have wraps : ((s.putResult x (s.getV x + kk)).getV x).toNat = ((s.getV x).toNat + kk.toNat) % 256 := by
      rw [State.getV_putResult_same, BitVec.toNat_add]
    exact ⟨_, exec_addImm x kk s, wraps, s.advancedBy2_putResult x _, s.onlyRegsChanged_putResult x _⟩
  case ldReg =>
    exact ⟨_, exec_ldReg x y s, s.getV_putResult_same x _, s.advancedBy2_putResult x _,
      s.onlyRegsChanged_putResult x _⟩

end Sys2Proof.Machine
end

section
/-! SUPPORT. Loads of the index register (42_index_memory.md): LD I and LD F write I and PC, and nothing else. -/

namespace Sys2Proof.Machine

theorem exec_ldI (nnn : Addr) (s : State) : exec (.ldI nnn) s = .next (s.setI (addrOperand nnn)).advance := rfl

theorem exec_ldF (x : Nibble) (s : State) :
    exec (.ldF x) s = .next (s.setI (glyphAddress (s.getVNibble x))).advance := rfl

theorem State.setI_advance_i (s : State) (a : Word) : (s.setI a).advance.i = a := by
  rw [State.advance_i, State.setI_i]

/-- The advance after a write to I is of a state whose PC is still that of `s`. -/
theorem State.advancedBy2_setI (s : State) (a : Word) : AdvancedBy2 s (s.setI a).advance :=
  State.advancedBy2_advance (s.setI a)

/-- Settles O42: both write I and advance; the operand is zero-extended, and 5 times a nibble fits in I. -/
theorem loadIndexAndGlyphAddress : Obligations.LoadIndexAndGlyphAddress := by
  refine ⟨fun s nnn => ?ldI, fun s x => ?ldF⟩
  case ldI =>
    have loaded : (s.setI (addrOperand nnn)).advance.i.toNat = nnn.toNat := by
      rw [State.setI_advance_i, addrOperand_toNat]
    exact ⟨_, exec_ldI nnn s, loaded, s.advancedBy2_setI _, s.onlyIChanged_setI _⟩
  case ldF =>
    have loaded : (s.setI (glyphAddress (s.getVNibble x))).advance.i.toNat = 5 * ((s.getV x).toNat % 16) := by
      rw [State.setI_advance_i, glyphAddress_toNat, State.getVNibble_toNat]
    exact ⟨_, exec_ldF x s, loaded, s.advancedBy2_setI _, s.onlyIChanged_setI _⟩

end Sys2Proof.Machine
end

section
/-! SUPPORT. Timer moves (44_timers.md): LD Vx,DT writes V[x] and PC; LD DT and LD ST write one timer and PC. -/

namespace Sys2Proof.Machine

theorem exec_ldVxDt (x : Nibble) (s : State) : exec (.ldVxDt x) s = .next (s.putResult x s.dt) := rfl

theorem exec_ldDtVx (x : Nibble) (s : State) : exec (.ldDtVx x) s = .next (s.setDt (s.getV x)).advance := rfl

theorem exec_ldStVx (x : Nibble) (s : State) : exec (.ldStVx x) s = .next (s.setSt (s.getV x)).advance := rfl

/-- Everything but PC and the two timers. -/
def OnlyTimersChanged (s t : State) : Prop :=
  SameRegs (fun _ => False) s t ∧ t.i = s.i ∧ SameMem (fun _ => False) s t ∧ SameStack s t ∧ SameRecord s t ∧
  SameOutside s t

/-- Writing the timers and PC leaves everything beyond them. -/
theorem onlyTimersChanged_update (s : State) (dt st : Byte) (pc : Word) :
    OnlyTimersChanged s { s with dt := dt, st := st, pc := pc } :=
  ⟨fun _ _ => rfl, rfl, fun _ _ => rfl, ⟨rfl, rfl⟩, ⟨rfl, rfl, rfl, rfl, rfl⟩, ⟨rfl, rfl, rfl, rfl⟩⟩

/-- A write to DT and the advance: DT is the byte written, ST and all else but PC are as before. -/
theorem State.setDt_advance_spec (s : State) (b : Byte) :
    (s.setDt b).advance.dt = b ∧ (s.setDt b).advance.st = s.st ∧ AdvancedBy2 s (s.setDt b).advance ∧
    OnlyTimersChanged s (s.setDt b).advance :=
  ⟨by rw [State.advance_dt, State.setDt_dt], by rw [State.advance_st, State.setDt_st],
    State.advancedBy2_advance (s.setDt b), onlyTimersChanged_update s b s.st _⟩

/-- A write to ST and the advance: ST is the byte written, DT and all else but PC are as before. -/
theorem State.setSt_advance_spec (s : State) (b : Byte) :
    (s.setSt b).advance.st = b ∧ (s.setSt b).advance.dt = s.dt ∧ AdvancedBy2 s (s.setSt b).advance ∧
    OnlyTimersChanged s (s.setSt b).advance :=
  ⟨by rw [State.advance_st, State.setSt_st], by rw [State.advance_dt, State.setSt_dt],
    State.advancedBy2_advance (s.setSt b), onlyTimersChanged_update s s.dt b _⟩

/-- Settles O55: the read of DT is `putResult` of DT; the other two write V[x] to one timer and advance. -/
theorem timerMoves : Obligations.TimerMoves := by
  refine ⟨fun s x => ?ldVxDt, fun s x => ?ldDtVx, fun s x => ?ldStVx⟩
  case ldVxDt =>
    exact ⟨_, exec_ldVxDt x s, s.getV_putResult_same x s.dt, s.advancedBy2_putResult x s.dt,
      s.onlyRegsChanged_putResult x s.dt⟩
  case ldDtVx => exact ⟨_, exec_ldDtVx x s, s.setDt_advance_spec (s.getV x)⟩
  case ldStVx => exact ⟨_, exec_ldStVx x s, s.setSt_advance_spec (s.getV x)⟩

end Sys2Proof.Machine
end

section
/-! SUPPORT. The codec (30_encoding.md): decoding and encoding are inverse to each other, and the legal words are those of the
opcode map. -/

namespace Sys2Proof

/-! ### The fields of an encoded word -/

@[simp] theorem fieldOp_wordA (op : Nibble) (nnn : Addr) : fieldOp (wordA op nnn) = op := (fields_wordA op nnn).1

@[simp] theorem fieldNNN_wordA (op : Nibble) (nnn : Addr) : fieldNNN (wordA op nnn) = nnn := (fields_wordA op nnn).2

@[simp] theorem fieldOp_wordXK (op x : Nibble) (kk : Byte) : fieldOp (wordXK op x kk) = op := (fields_wordXK op x kk).1

@[simp] theorem fieldX_wordXK (op x : Nibble) (kk : Byte) : fieldX (wordXK op x kk) = x := (fields_wordXK op x kk).2.1

@[simp] theorem fieldKK_wordXK (op x : Nibble) (kk : Byte) : fieldKK (wordXK op x kk) = kk := (fields_wordXK op x kk).2.2

@[simp] theorem fieldOp_wordXYN (op x y n : Nibble) : fieldOp (wordXYN op x y n) = op := (fields_wordXYN op x y n).1

@[simp] theorem fieldX_wordXYN (op x y n : Nibble) : fieldX (wordXYN op x y n) = x := (fields_wordXYN op x y n).2.1

@[simp] theorem fieldY_wordXYN (op x y n : Nibble) : fieldY (wordXYN op x y n) = y := (fields_wordXYN op x y n).2.2.1

@[simp] theorem fieldN_wordXYN (op x y n : Nibble) : fieldN (wordXYN op x y n) = n := (fields_wordXYN op x y n).2.2.2

/-! ### A word from its fields -/

theorem wordA_of_fieldOp {w : Word} {op : Nibble} (hop : fieldOp w = op) : wordA op (fieldNNN w) = w :=
  hop ▸ wordA_fields w

theorem wordXK_of_fieldOp {w : Word} {op : Nibble} (hop : fieldOp w = op) : wordXK op (fieldX w) (fieldKK w) = w :=
  hop ▸ wordXK_fields w

theorem wordXK_of_fieldKK {w : Word} {op : Nibble} {kk : Byte} (hop : fieldOp w = op) (hkk : fieldKK w = kk) :
    wordXK op (fieldX w) kk = w :=
  hkk ▸ wordXK_of_fieldOp hop

theorem wordXYN_of_fieldOp {w : Word} {op : Nibble} (hop : fieldOp w = op) :
    wordXYN op (fieldX w) (fieldY w) (fieldN w) = w :=
  hop ▸ wordXYN_fields w

theorem wordXYN_of_fieldN {w : Word} {op n : Nibble} (hop : fieldOp w = op) (hn : fieldN w = n) :
    wordXYN op (fieldX w) (fieldY w) n = w :=
  hn ▸ wordXYN_of_fieldOp hop

/-! ### Decoding an encoding -/

/-- The top nibble of an encoding selects the family, and the family's selector the instruction. -/
theorem decode_encode (i : Instr) : decode (encode i) = .ok i := by
  cases i
  case cls => rfl
  case ret => rfl
  all_goals
    simp [encode, decode, decodeNeedN0, decodeFamily8, decodeFamilyE, decodeFamilyF]

/-! ### Encoding a decoding, family by family -/

theorem encode_of_decodeFamily0 {w : Word} {i : Instr} (h : decodeFamily0 w = .ok i) : encode i = w := by
  unfold decodeFamily0 at h
  split at h
  · next hw => cases h; exact hw.symm
  · split at h
    · next hw => cases h; exact hw.symm
    · cases h

theorem encode_of_decodeNeedN0 {w : Word} {i j : Instr} (hi : fieldN w = 0#4 → encode i = w)
    (h : decodeNeedN0 w i = .ok j) : encode j = w := by
  unfold decodeNeedN0 at h
  split at h
  · next hn => cases h; exact hi hn
  · cases h

theorem encode_of_decodeFamily8 {w : Word} {i : Instr} (hop : fieldOp w = 0x8#4) (h : decodeFamily8 w = .ok i) :
    encode i = w := by
  unfold decodeFamily8 at h
  split at h <;> cases h
  all_goals
    next hn => exact wordXYN_of_fieldN hop hn

theorem encode_of_decodeFamilyE {w : Word} {i : Instr} (hop : fieldOp w = 0xE#4) (h : decodeFamilyE w = .ok i) :
    encode i = w := by
  unfold decodeFamilyE at h
  split at h <;> cases h
  all_goals
    next hkk => exact wordXK_of_fieldKK hop hkk

theorem encode_of_decodeFamilyF {w : Word} {i : Instr} (hop : fieldOp w = 0xF#4) (h : decodeFamilyF w = .ok i) :
    encode i = w := by
  unfold decodeFamilyF at h
  split at h <;> cases h
  all_goals
    next hkk => exact wordXK_of_fieldKK hop hkk

/-- Decoding drops no bit: each family's selector and operand fields make up the whole word. -/
theorem encode_of_decode {w : Word} {i : Instr} (h : decode w = .ok i) : encode i = w := by
  unfold decode at h
  split at h
  · exact encode_of_decodeFamily0 h
  · next hop => cases h; exact wordA_of_fieldOp hop
  · next hop => cases h; exact wordA_of_fieldOp hop
  · next hop => cases h; exact wordXK_of_fieldOp hop
  · next hop => cases h; exact wordXK_of_fieldOp hop
  · next hop => exact encode_of_decodeNeedN0 (wordXYN_of_fieldN hop) h
  · next hop => cases h; exact wordXK_of_fieldOp hop
  · next hop => cases h; exact wordXK_of_fieldOp hop
  · next hop => exact encode_of_decodeFamily8 hop h
  · next hop => exact encode_of_decodeNeedN0 (wordXYN_of_fieldN hop) h
  · next hop => cases h; exact wordA_of_fieldOp hop
  · next hop => cases h; exact wordA_of_fieldOp hop
  · next hop => cases h; exact wordXK_of_fieldOp hop
  · next hop => cases h; exact wordXYN_of_fieldOp hop
  · next hop => exact encode_of_decodeFamilyE hop h
  · have hop : fieldOp w = 0xF#4 := by
      generalize fieldOp w = op at *
      clear h
      revert op
      decide
    exact encode_of_decodeFamilyF hop h

theorem decode_eq_ok_iff {w : Word} {i : Instr} : decode w = .ok i ↔ w = encode i :=
  ⟨fun h => (encode_of_decode h).symm, fun h => h ▸ decode_encode i⟩

end Sys2Proof
end

section
/-! SUPPORT. The opcode map (30_encoding.md R80): a word matches the row of an instruction exactly when it decodes to an
instruction of that row. -/

namespace Sys2Proof

theorem rowMatches_iff {r : OpcodeRow} {w : Word} : rowMatches r w = true ↔ w &&& r.mask = r.pattern := beq_iff_eq

/-- The family `Laws.EncodesInRow`, for every instruction. -/
theorem rowMatches_row_encode (i : Instr) : rowMatches i.row (encode i) = true := by
  cases i with
  | cls => exact Laws.EncodesInRow.cls
  | ret => exact Laws.EncodesInRow.ret
  | jp nnn => exact Laws.EncodesInRow.jp nnn
  | call nnn => exact Laws.EncodesInRow.call nnn
  | seImm x kk => exact Laws.EncodesInRow.seImm x kk
  | sneImm x kk => exact Laws.EncodesInRow.sneImm x kk
  | seReg x y => exact Laws.EncodesInRow.seReg x y
  | ldImm x kk => exact Laws.EncodesInRow.ldImm x kk
  | addImm x kk => exact Laws.EncodesInRow.addImm x kk
  | ldReg x y => exact Laws.EncodesInRow.ldReg x y
  | orReg x y => exact Laws.EncodesInRow.orReg x y
  | andReg x y => exact Laws.EncodesInRow.andReg x y
  | xorReg x y => exact Laws.EncodesInRow.xorReg x y
  | addReg x y => exact Laws.EncodesInRow.addReg x y
  | subReg x y => exact Laws.EncodesInRow.subReg x y
  | shr x y => exact Laws.EncodesInRow.shr x y
  | subnReg x y => exact Laws.EncodesInRow.subnReg x y
  | shl x y => exact Laws.EncodesInRow.shl x y
  | sneReg x y => exact Laws.EncodesInRow.sneReg x y
  | ldI nnn => exact Laws.EncodesInRow.ldI nnn
  | jpV0 nnn => exact Laws.EncodesInRow.jpV0 nnn
  | rnd x kk => exact Laws.EncodesInRow.rnd x kk
  | drw x y n => exact Laws.EncodesInRow.drw x y n
  | skp x => exact Laws.EncodesInRow.skp x
  | sknp x => exact Laws.EncodesInRow.sknp x
  | ldVxDt x => exact Laws.EncodesInRow.ldVxDt x
  | ldVxK x => exact Laws.EncodesInRow.ldVxK x
  | ldDtVx x => exact Laws.EncodesInRow.ldDtVx x
  | ldStVx x => exact Laws.EncodesInRow.ldStVx x
  | addI x => exact Laws.EncodesInRow.addI x
  | ldF x => exact Laws.EncodesInRow.ldF x
  | ldB x => exact Laws.EncodesInRow.ldB x
  | storeRegs x => exact Laws.EncodesInRow.storeRegs x
  | loadRegs x => exact Laws.EncodesInRow.loadRegs x

/-- A field that the mask keeps whole is equal in any two words that agree under the mask. -/
theorem extractLsb'_eq_of_and_eq {w w' m : Word} {start len : Nat}
    (hm : m.extractLsb' start len = BitVec.allOnes len) (h : w &&& m = w' &&& m) :
    w.extractLsb' start len = w'.extractLsb' start len := by
  have hf := congrArg (BitVec.extractLsb' start len) h
  simpa only [BitVec.extractLsb'_and, hm, BitVec.and_allOnes] using hf

theorem eq_of_and_allOnes_eq {w w' : Word} (h : w &&& 0xFFFF#16 = w' &&& 0xFFFF#16) : w = w' := by
  rwa [show (0xFFFF#16 : Word) = BitVec.allOnes 16 from rfl, BitVec.and_allOnes, BitVec.and_allOnes] at h

/-- Every row's mask keeps the top nibble. -/
theorem fieldOp_row_mask (i : Instr) : i.row.mask.extractLsb' 12 4 = BitVec.allOnes 4 := by
  cases i <;> simp [Instr.row]

/-- A word that matches an instruction's row decodes to an instruction of that row: the row's mask keeps exactly the fields
the decoder selects by, and they are those of the instruction's own word. -/
theorem decode_of_rowMatches {i : Instr} {w : Word} (h : rowMatches i.row w = true) :
    ∃ j, decode w = .ok j ∧ j.row = i.row := by
  have agree : w &&& i.row.mask = encode i &&& i.row.mask := by
    rw [rowMatches_iff.mp h, rowMatches_iff.mp (rowMatches_row_encode i)]
  have hop : fieldOp w = fieldOp (encode i) := extractLsb'_eq_of_and_eq (fieldOp_row_mask i) agree
  cases i
  case cls | ret => exact ⟨_, decode_eq_ok_iff.mpr (eq_of_and_allOnes_eq agree), rfl⟩
  case seReg | ldReg | orReg | andReg | xorReg | addReg | subReg | shr | subnReg | shl | sneReg =>
    have hn : fieldN w = fieldN (encode _) := extractLsb'_eq_of_and_eq (m := 0xF00F#16) (by decide) agree
    simp only [encode, fieldOp_wordXYN, fieldN_wordXYN] at hop hn
    simp [decode, decodeNeedN0, decodeFamily8, hop, hn, Instr.row]
  case skp | sknp | ldVxDt | ldVxK | ldDtVx | ldStVx | addI | ldF | ldB | storeRegs | loadRegs =>
    have hkk : fieldKK w = fieldKK (encode _) := extractLsb'_eq_of_and_eq (m := 0xF0FF#16) (by decide) agree
    simp only [encode, fieldOp_wordXK, fieldKK_wordXK] at hop hkk
    simp [decode, decodeFamilyE, decodeFamilyF, hop, hkk, Instr.row]
  all_goals
    simp only [encode, fieldOp_wordA, fieldOp_wordXK, fieldOp_wordXYN] at hop
    simp [decode, hop, Instr.row]

/-- Every family rejects with the whole word. -/
theorem decode_error_eq {w : Word} {e : DecodeReject} (h : decode w = .error e) : e = .illegalOpcode w := by
  simp only [decode, decodeFamily0, decodeNeedN0, decodeFamily8, decodeFamilyE, decodeFamilyF] at h
  repeat' split at h
  all_goals cases h <;> rfl

theorem row_mem_opcodeRows (i : Instr) : i.row ∈ opcodeRows := by
  cases i <;> simp [opcodeRows, Instr.row]

theorem exists_row_of_mem_opcodeRows {r : OpcodeRow} (h : r ∈ opcodeRows) : ∃ i : Instr, i.row = r := by
  revert h r
  simp [opcodeRows]

theorem rowMatches_iff_decode {r : OpcodeRow} (hr : r ∈ opcodeRows) {w : Word} :
    rowMatches r w = true ↔ ∃ i, decode w = .ok i ∧ i.row = r := by
  constructor
  · obtain ⟨i, rfl⟩ := exists_row_of_mem_opcodeRows hr
    exact decode_of_rowMatches
  · rintro ⟨i, hd, rfl⟩
    rw [← encode_of_decode hd]
    exact rowMatches_row_encode i

theorem noRowMatches_iff_illegal {w : Word} :
    (∀ r ∈ opcodeRows, rowMatches r w = false) ↔ decode w = .error (.illegalOpcode w) := by
  constructor
  · intro h
    cases hd : decode w with
    | ok i =>
      have hm := (rowMatches_iff_decode (row_mem_opcodeRows i)).mpr ⟨i, hd, rfl⟩
      rw [h _ (row_mem_opcodeRows i)] at hm
      cases hm
    | error e => rw [decode_error_eq hd]
  · intro hd r hr
    rw [Bool.eq_false_iff]
    intro hm
    obtain ⟨i, hi, -⟩ := (rowMatches_iff_decode hr).mp hm
    rw [hd] at hi
    cases hi

/-- The rows are pairwise different, and a word's decoding determines its row. -/
theorem opcodeRows_disjoint :
    opcodeRows.Pairwise (fun r r' => ∀ w : Word, ¬ (rowMatches r w = true ∧ rowMatches r' w = true)) := by
  have distinct : opcodeRows.Nodup := by decide
  refine List.Pairwise.imp_of_mem ?_ distinct
  rintro r r' hr hr' hne w ⟨hm, hm'⟩
  obtain ⟨i, hi, hri⟩ := (rowMatches_iff_decode hr).mp hm
  obtain ⟨j, hj, hrj⟩ := (rowMatches_iff_decode hr').mp hm'
  have hij : i = j := Except.ok.inj (hi.symm.trans hj)
  exact hne (by rw [← hri, ← hrj, hij])

/-- The register skips exist for `n = 0` alone (30_encoding.md R81, decision D3). -/
theorem decode_registerSkip_illegal (x y : Nibble) {n : Nibble} (hn : n ≠ 0#4) :
    decode (wordXYN 0x5#4 x y n) = .error (.illegalOpcode (wordXYN 0x5#4 x y n)) ∧
    decode (wordXYN 0x9#4 x y n) = .error (.illegalOpcode (wordXYN 0x9#4 x y n)) := by
  simp [decode, decodeNeedN0, hn]

/-- Settles O1: the fields of an encoded word are the operands, and its selector is the instruction's. -/
theorem decodeOfEncodeIsTheInstruction : Obligations.DecodeOfEncodeIsTheInstruction := fun i _ => decode_encode i

/-- Settles O2: family by family, selector and operands make up the word. -/
theorem decodedWordIsTheEncoding : Obligations.DecodedWordIsTheEncoding := fun _ _ h => encode_of_decode h

/-- Settles O3: matching a row is decoding into it; the rest follows because decoding is a function. -/
theorem decodeFollowsTheOpcodeMap : Obligations.DecodeFollowsTheOpcodeMap :=
  ⟨rfl, fun _ _ hr => rowMatches_iff_decode hr, fun _ => noRowMatches_iff_illegal, opcodeRows_disjoint⟩

/-- Settles O4: the decoder evaluated on each of the thirteen words. -/
theorem sampleWordsDecode : Obligations.SampleWordsDecode := by
  unfold Obligations.SampleWordsDecode
  decide

end Sys2Proof
end

section
/-! SUPPORT. Every instruction as a check and an effect: `execError` names the error an instruction raises from a state (the
table of 60_exceptions.md R221), `execEffect` the state it makes when it raises none, and `exec_eq_run` says that `exec` is the
two together. -/

namespace Sys2Proof.Machine

/-- The cause and the address of the error that `i` raises from `s`, if any (60_exceptions.md R221). -/
def execError (i : Instr) (s : State) : Option (Cause × Nat) :=
  match i with
  | .ret => if s.sp = 0#5 then some (.stackUnderflow, 0) else none
  | .call _ => if Config.stackDepth ≤ s.sp.toNat then some (.stackOverflow, 0) else none
  | .drw _ _ n => (rangeError s.base n.toNat).map (Prod.mk .outOfRange)
  | .ldB _ => (rangeError s.base 3).map (Prod.mk .outOfRange)
  | .storeRegs x | .loadRegs x => (rangeError s.base (regCount x)).map (Prod.mk .outOfRange)
  | _ => none

/-- The state that `i` makes of `s` when it raises no error. -/
def execEffect (i : Instr) (s : State) : State :=
  match i with
  | .cls => (s.setFb Display.cleared).advance
  | .ret => s.drop.setPc (s.top + 2#16)
  | .jp nnn => s.setPc (addrOperand nnn)
  | .call nnn => (s.push s.pc).setPc (addrOperand nnn)
  | .seImm x kk => s.skipIf (s.getV x == kk)
  | .sneImm x kk => s.skipIf (s.getV x != kk)
  | .seReg x y => s.skipIf (s.getV x == s.getV y)
  | .sneReg x y => s.skipIf (s.getV x != s.getV y)
  | .jpV0 nnn => s.setPc (addrOperand nnn + s.getVWord 0#4)
  | .ldImm x kk => s.putResult x kk
  | .addImm x kk => s.putResult x (s.getV x + kk)
  | .ldReg x y => s.putResult x (s.getV y)
  | .orReg x y => s.putResult x (s.getV x ||| s.getV y)
  | .andReg x y => s.putResult x (s.getV x &&& s.getV y)
  | .xorReg x y => s.putResult x (s.getV x ^^^ s.getV y)
  | .addReg x y => s.putResultFlag x (s.getV x + s.getV y) (carryOut (s.getV x) (s.getV y))
  | .subReg x y => s.putResultFlag x (s.getV x - s.getV y) (notBorrow (s.getV x) (s.getV y))
  | .shr x _ => s.putResultFlag x (s.getV x >>> 1) (lowBitOut (s.getV x))
  | .subnReg x y => s.putResultFlag x (s.getV y - s.getV x) (notBorrow (s.getV y) (s.getV x))
  | .shl x _ => s.putResultFlag x (s.getV x <<< 1) (highBitOut (s.getV x))
  | .rnd x kk => s.useDraw.putResult x (Config.randomByte s.draws &&& kk)
  | .ldI nnn => (s.setI (addrOperand nnn)).advance
  | .addI x => (s.setI (s.i + s.getVWord x)).advance
  | .ldF x => (s.setI (glyphAddress (s.getVNibble x))).advance
  | .drw x y n => s.drawn x y (s.mem.readRun s.base n.toNat)
  | .skp x => s.useDraw.skipIf (s.keyAnswer x)
  | .sknp x => s.useDraw.skipIf (!s.keyAnswer x)
  | .ldVxK x =>
    match s.keyPort with
    | some k => s.takeKey.putResult x (k.setWidth 8)
    | none => s
  | .ldVxDt x => s.putResult x s.dt
  | .ldDtVx x => (s.setDt (s.getV x)).advance
  | .ldStVx x => (s.setSt (s.getV x)).advance
  | .ldB x => (s.setMem (s.mem.writeRun s.base (bcdDigits (s.getV x)))).advance
  | .storeRegs x => (s.setMem (s.mem.writeRun s.base (s.regRun 0 (regCount x)))).advance
  | .loadRegs x => (s.loadRun 0 (s.mem.readRun s.base (regCount x))).advance

/-- The error `e` raised from `s` with the word `instr`, or, when there is none, the state `t`. -/
def State.raiseOr (s : State) (e : Option (Cause × Nat)) (instr : Word) (t : State) : State :=
  match e with
  | some (c, a) => s.raise c instr a
  | none => t

/-- The state after `i`: the error raised with the instruction's own word, or the effect. -/
def execRun (i : Instr) (s : State) : State := s.raiseOr (execError i s) (encode i) (execEffect i s)

theorem execRun_of_error {i : Instr} {s : State} {c : Cause} {a : Nat} (h : execError i s = some (c, a)) :
    execRun i s = s.raise c (encode i) a := by
  rw [execRun, h, State.raiseOr]

theorem execRun_of_noError {i : Instr} {s : State} (h : execError i s = none) : execRun i s = execEffect i s := by
  rw [execRun, h, State.raiseOr]

/-- A guarded effect is the check of its range followed by the effect. -/
theorem guardRange_eq (s t : State) (instr : Word) (base count : Nat) :
    guardRange s instr base count t =
      .next (s.raiseOr ((rangeError base count).map (Prod.mk .outOfRange)) instr t) := by
  unfold guardRange
  cases rangeError base count <;> rfl

/-- `exec` is total, and its answer is the error or the effect. -/
theorem exec_eq_run (i : Instr) (s : State) : exec i s = .next (execRun i s) := by
  cases i
  case ret =>
    simp only [exec, execRet, execRun, execError]
    split <;> rfl
  case call nnn =>
    simp only [exec, execCall, execRun, execError]
    split <;> rfl
  case ldVxK x =>
    cases hk : s.keyPort <;> simp only [exec, execLdVxK, execRun, execError, execEffect, State.raiseOr, hk]
  case drw | ldB | storeRegs | loadRegs => exact guardRange_eq ..
  all_goals rfl

theorem exec_next_iff {i : Instr} {s t : State} : exec i s = .next t ↔ t = execRun i s := by
  rw [exec_eq_run]
  exact ⟨fun h => by cases h; rfl, fun h => by rw [h]⟩

/-- The two ways an instruction ends. -/
theorem exec_cases {i : Instr} {s t : State} (h : exec i s = .next t) :
    (∃ c a, execError i s = some (c, a) ∧ t = s.raise c (encode i) a) ∨
    (execError i s = none ∧ t = execEffect i s) := by
  have ht := exec_next_iff.mp h
  cases he : execError i s with
  | some e => exact .inl ⟨e.1, e.2, rfl, by rw [ht, execRun_of_error he]⟩
  | none => exact .inr ⟨rfl, by rw [ht, execRun_of_noError he]⟩

theorem exec_of_noError {i : Instr} {s : State} (h : execError i s = none) : exec i s = .next (execEffect i s) := by
  rw [exec_eq_run, execRun_of_noError h]

theorem exec_of_error {i : Instr} {s : State} {c : Cause} {a : Nat} (h : execError i s = some (c, a)) :
    exec i s = .next (s.raise c (encode i) a) := by
  rw [exec_eq_run, execRun_of_error h]

end Sys2Proof.Machine
end

section
/-! SUPPORT. Errors of the execute phase (60_exceptions.md R202 to R206, R221): the range check, who raises what, and what the
halted state holds. -/

namespace Sys2Proof.Machine

/-- The instructions whose range of memory is not all below 4096 (60_exceptions.md R202). -/
def AccessBeyondTop (i : Instr) (s : State) : Prop :=
  (∃ x y n, i = .drw x y n ∧ 0 < n.toNat ∧ 4096 ≤ s.i.toNat + n.toNat - 1) ∨
  (∃ x, i = .ldB x ∧ 4096 ≤ s.i.toNat + 2) ∨
  (∃ x, (i = .storeRegs x ∨ i = .loadRegs x) ∧ 4096 ≤ s.i.toNat + x.toNat)

/-- A check that names no address, as the error it makes. -/
theorem check_eq_some {p : Prop} [Decidable p] {c₀ c : Cause} {a : Nat} :
    (if p then some (c₀, 0) else none) = some (c, a) ↔ p ∧ c = c₀ ∧ a = 0 := by
  rw [Option.ite_none_right_eq_some, Option.some.injEq, Prod.mk.injEq, eq_comm (a := c), eq_comm (a := a)]

/-- The check of a range that starts at I, as the error it makes. -/
theorem rangeCheck_eq_some {s : State} {count : Nat} {c : Cause} {a : Nat} :
    (rangeError s.base count).map (Prod.mk .outOfRange) = some (c, a) ↔
      (0 < count ∧ 4096 < s.i.toNat + count) ∧ c = .outOfRange ∧ a = max s.i.toNat 4096 := by
  simp only [Option.map_eq_some_iff, rangeError_eq_some, State.base, Prod.mk.injEq]
  constructor
  · rintro ⟨b, ⟨h, h', rfl⟩, rfl, rfl⟩
    exact ⟨⟨h, h'⟩, rfl, rfl⟩
  · rintro ⟨⟨h, h'⟩, rfl, rfl⟩
    exact ⟨_, ⟨h, h', rfl⟩, rfl, rfl⟩

/-- Which instruction raises which cause with which address, complete (60_exceptions.md R221). -/
theorem execError_eq_some {i : Instr} {s : State} {c : Cause} {a : Nat} :
    execError i s = some (c, a) ↔
      ((i = .ret ∧ s.sp = 0#5) ∧ c = .stackUnderflow ∧ a = 0) ∨
      (((∃ nnn, i = .call nnn) ∧ 16 ≤ s.sp.toNat) ∧ c = .stackOverflow ∧ a = 0) ∨
      (AccessBeyondTop i s ∧ c = .outOfRange ∧ a = max s.i.toNat 4096) := by
  cases i
  case ret =>
    rw [execError, check_eq_some]
    simp [AccessBeyondTop]
  case call nnn =>
    rw [execError, check_eq_some]
    simp [AccessBeyondTop, Config.stackDepth]
  case drw | ldB | storeRegs | loadRegs =>
    rw [execError, rangeCheck_eq_some]
    simp [AccessBeyondTop, regCount]
    omega
  all_goals simp [execError, AccessBeyondTop]

/-- An effect leaves STATUS and the fault record alone: only raising an error writes them. -/
theorem execEffect_sameRecord (i : Instr) (s : State) : SameRecord s (execEffect i s) := by
  cases i
  case ldVxK x =>
    simp only [execEffect]
    split <;> exact ⟨rfl, rfl, rfl, rfl, rfl⟩
  case loadRegs x =>
    rw [execEffect, State.loadRun_eq]
    exact ⟨rfl, rfl, rfl, rfl, rfl⟩
  all_goals exact ⟨rfl, rfl, rfl, rfl, rfl⟩

/-- A running machine is halted by an instruction exactly when the instruction raises an error. -/
theorem execRun_halted_iff {i : Instr} {s : State} (hrun : s.status = .run) :
    (execRun i s).status = .halted ↔ ∃ c a, execError i s = some (c, a) := by
  cases he : execError i s with
  | some e =>
    rw [execRun_of_error he]
    exact ⟨fun _ => ⟨_, _, rfl⟩, fun _ => rfl⟩
  | none =>
    obtain ⟨hstatus, -⟩ := execEffect_sameRecord i s
    rw [execRun_of_noError he, hstatus, hrun]
    simp

/-- An access of memory past the top halts with its own word and the lowest bad address (20_memory.md R50). -/
theorem guardRange_raised {s t : State} {instr : Word} {count w : Nat} (h : 0 < count) (h' : 4096 < s.i.toNat + count)
    (hw : instr.toNat = w) :
    ∃ u, guardRange s instr s.base count t = .next u ∧ Raised s u 2 w (max s.i.toNat 4096) := by
  have hi := s.i.isLt
  have raised := s.raised_raise .outOfRange instr (addr := max s.i.toNat 4096) (by omega)
  exact ⟨_, guardRange_raises h h', hw ▸ raised⟩

/-- Settles O44: the lowest bad address of a range that reaches past the top is the base or 4096. -/
theorem rangeCheckNamesTheLowestBadAddress : Obligations.RangeCheckNamesTheLowestBadAddress := by
  intro base count a
  rw [rangeError_eq_some]
  constructor
  · rintro ⟨hpos, hbad, rfl⟩
    exact ⟨by omega, by omega, by omega, fun b _ _ _ => by omega⟩
  · rintro ⟨hlo, hhi, htop, hleast⟩
    have := hleast (max base 4096) (by omega) (by omega) (by omega)
    omega

/-- Settles O11: the table of errors, and that nothing but an error halts a running machine. -/
theorem executeErrorsAreComplete : Obligations.ExecuteErrorsAreComplete := by
  intro i s t hrun h
  obtain rfl := exec_next_iff.mp h
  rw [execRun_halted_iff hrun]
  constructor
  · simp only [execError_eq_some]
    constructor
    · rintro ⟨c, a, ⟨hret, -⟩ | ⟨hcall, -⟩ | ⟨hrange, -⟩⟩
      · exact .inl hret
      · exact .inr (.inl hcall)
      · exact .inr (.inr hrange)
    · rintro (hret | hcall | hrange)
      · exact ⟨_, _, .inl ⟨hret, rfl, rfl⟩⟩
      · exact ⟨_, _, .inr (.inl ⟨hcall, rfl, rfl⟩)⟩
      · exact ⟨_, _, .inr (.inr ⟨hrange, rfl, rfl⟩)⟩
  · rintro ⟨c, a, he⟩
    rw [execRun_of_error he]
    obtain ⟨⟨rfl, -⟩, rfl, -⟩ | ⟨⟨⟨nnn, rfl⟩, -⟩, rfl, -⟩ | ⟨hrange, rfl, -⟩ := execError_eq_some.mp he
    · simp [causeCode]
    · simp [causeCode]
    · obtain ⟨x, y, n, rfl, -⟩ | ⟨x, rfl, -⟩ | ⟨x, rfl | rfl, -⟩ := hrange <;> simp [causeCode]

/-- Settles O12: an error is raised with the encoding of the instruction, and decoding loses no bit of the word. -/
theorem errInstrIsTheFetchedWord : Obligations.ErrInstrIsTheFetchedWord := by
  intro s t w i hrun _ hdec hexec hhalt
  rw [← encode_of_decode hdec]
  obtain rfl | rfl | rfl | ⟨hstatus, -⟩ := exec_raises_or_keeps hexec
  · rfl
  · rfl
  · rfl
  · rw [hstatus, hrun] at hhalt
    cases hhalt

/-- The words of family F. -/
theorem wordF_toNat (x : Nibble) (kk : Byte) : (wordXK 0xF#4 x kk).toNat = 0xF000 + kk.toNat + x.toNat * 256 := by
  rw [wordXK_toNat]
  change 15 * 4096 + x.toNat * 256 + kk.toNat = _
  omega

/-- Settles O48: each of the four guards its range of memory before any effect. -/
theorem memoryAccessBeyondTheTopHalts : Obligations.MemoryAccessBeyondTheTopHalts := by
  refine ⟨fun s x h => ?ldB, fun s x h => ?storeRegs, fun s x h => ?loadRegs, fun s x y n hn h => ?drw⟩
  case ldB => exact guardRange_raised (by decide) (by omega) (wordF_toNat x 0x33#8)
  case storeRegs =>
    exact guardRange_raised (Nat.succ_pos _) (by simp only [regCount]; omega) (wordF_toNat x 0x55#8)
  case loadRegs =>
    exact guardRange_raised (Nat.succ_pos _) (by simp only [regCount]; omega) (wordF_toNat x 0x65#8)
  case drw => exact guardRange_raised hn (by omega) (wordXYN_toNat 0xD#4 x y n)

end Sys2Proof.Machine
end

section
/-! SUPPORT. Who writes what (10_state.md R31): the writers of every field of the state, over all instructions, and of VF. -/

namespace Sys2Proof.Machine

/-- From `s` to `t` the instruction `j` has changed only what it is listed for (10_state.md R31). -/
structure WritesOnlyItsOwn (j : Instr) (s t : State) : Prop where
  v : t.v ≠ s.v → j.writesV = true
  i : t.i ≠ s.i → (∃ nnn, j = .ldI nnn) ∨ (∃ x, j = .addI x ∨ j = .ldF x)
  dt : t.dt ≠ s.dt → ∃ x, j = .ldDtVx x
  st : t.st ≠ s.st → ∃ x, j = .ldStVx x
  stack : t.stack ≠ s.stack → ∃ nnn, j = .call nnn
  sp : t.sp ≠ s.sp → j = .ret ∨ ∃ nnn, j = .call nnn
  fb : t.fb ≠ s.fb → j = .cls ∨ ∃ x y n, j = .drw x y n
  mem : t.mem ≠ s.mem → ∃ x, j = .ldB x ∨ j = .storeRegs x
  keyPort : t.keyPort ≠ s.keyPort → ∃ x, j = .ldVxK x
  draws : t.draws ≠ s.draws → ∃ x, j = .skp x ∨ j = .sknp x ∨ ∃ kk, j = .rnd x kk
  agenda : t.agenda = s.agenda

/-- Raising an error writes STATUS and the fault record only. -/
theorem writesOnlyItsOwn_raise (i : Instr) (s : State) (c : Cause) (w : Word) (a : Nat) :
    WritesOnlyItsOwn i s (s.raise c w a) := by
  constructor <;> simp

theorem writesOnlyItsOwn_effect (i : Instr) (s : State) : WritesOnlyItsOwn i s (execEffect i s) := by
  cases i
  case ldVxK x =>
    simp only [execEffect]
    split <;> constructor <;> simp [State.putResult, Instr.writesV]
  case loadRegs x =>
    rw [execEffect, State.loadRun_eq]
    constructor <;> simp [Instr.writesV]
  all_goals
    constructor <;> simp [execEffect, State.putResult, State.putResultFlag, State.drawn, Instr.writesV]

theorem exec_writesOnlyItsOwn {i : Instr} {s t : State} (h : exec i s = .next t) : WritesOnlyItsOwn i s t := by
  obtain ⟨c, a, -, rfl⟩ | ⟨-, rfl⟩ := exec_cases h
  · exact writesOnlyItsOwn_raise i s c (encode i) a
  · exact writesOnlyItsOwn_effect i s

/-- Settles O16: the effects case by case; an error writes none of these. -/
theorem whoWritesWhat : Obligations.WhoWritesWhat := by
  intro i s t h
  have w := exec_writesOnlyItsOwn h
  have bytes : ∀ a : Nat, t.mem.read a ≠ s.mem.read a → ∃ x, i = .ldB x ∨ i = .storeRegs x :=
    fun a ha => w.mem fun hm => ha (by rw [hm])
  exact ⟨w.v, w.i, w.dt, w.st, w.stack, w.sp, w.fb, bytes, w.keyPort, w.draws, w.agenda⟩

/-- A result without a flag changes VF only when VF is its register. -/
theorem State.eq_vf_of_putResult {s : State} {x : Nibble} {r : Byte}
    (h : (s.putResult x r).getV 15#4 ≠ s.getV 15#4) : x = 15#4 := by
  rw [State.getV_putResult] at h
  by_contra hx
  exact h (if_neg (Ne.symm hx))

/-- Loading `V[0]` to `V[x]` changes VF only when `x` is F. -/
theorem State.eq_vf_of_loadRun {s : State} {x : Nibble} {bs : List Byte} (hl : bs.length = regCount x)
    (h : (s.loadRun 0 bs).getV 15#4 ≠ s.getV 15#4) : x = 15#4 := by
  have hx := x.isLt
  simp only [regCount] at hl
  by_contra hne
  have hlt : x.toNat ≠ (15#4).toNat := fun e => hne (BitVec.eq_of_toNat_eq e)
  simp only [BitVec.reduceToNat] at hlt
  exact h (State.getV_loadRun_outside bs s 0 (by omega) (.inr (by simp; omega)))

/-- Settles O17: an instruction that does not write V leaves VF; the rest write it as flag or as destination. -/
theorem whoWritesVF : Obligations.WhoWritesVF := by
  intro i s t h hvf
  have hv : i.writesV = true := (exec_writesOnlyItsOwn h).v fun hv => hvf (State.getV_congr hv _)
  obtain ⟨c, a, -, rfl⟩ | ⟨-, rfl⟩ := exec_cases h
  · exact absurd rfl hvf
  · cases i
    case addReg | subReg | shr | subnReg | shl => simp
    case drw => simp
    case ldImm | addImm | ldReg | orReg | andReg | xorReg | ldVxDt =>
      obtain rfl := State.eq_vf_of_putResult hvf
      simp
    case rnd x kk =>
      obtain rfl := State.eq_vf_of_putResult (s := s.useDraw) hvf
      simp
    case ldVxK x =>
      simp only [execEffect] at hvf
      split at hvf
      · obtain rfl := State.eq_vf_of_putResult (s := s.takeKey) hvf
        simp
      · exact absurd rfl hvf
    case loadRegs x =>
      obtain rfl := State.eq_vf_of_loadRun (s.mem.length_readRun _ _) hvf
      simp
    all_goals cases hv

end Sys2Proof.Machine
end

section
/-! SUPPORT. Isolation: what an instruction does not read it carries through. The timers, the display and the agenda may be
changed before an instruction that does not move or draw them as well as after it. -/

namespace Sys2Proof.Machine

/-- The timers, the display and the agenda rewritten; nothing else changed. -/
def State.recast (s : State) (timer : Byte → Byte) (screen : Display → Display) (turns : List Turn → List Turn) : State :=
  { s with dt := timer s.dt, st := timer s.st, fb := screen s.fb, agenda := turns s.agenda }

theorem State.tick_eq_recast (s : State) : s.tick = s.recast tickDown id id := rfl

theorem State.setFb_eq_recast (s : State) (d : Display) : s.setFb d = s.recast id (fun _ => d) id := rfl

theorem State.setAgenda_eq_recast (s : State) (ts : List Turn) : s.setAgenda ts = s.recast id id (fun _ => ts) := rfl

section
variable {timer : Byte → Byte} {screen : Display → Display} {turns : List Turn → List Turn}

theorem State.regRun_recast (s : State) (k n : Nat) : (s.recast timer screen turns).regRun k n = s.regRun k n :=
  State.regRun_congr (show (s.recast timer screen turns).v = s.v from rfl) n k

theorem State.loadRun_recast : ∀ (bs : List Byte) (s : State) (k : Nat),
    (s.recast timer screen turns).loadRun k bs = (s.loadRun k bs).recast timer screen turns
  | [], _, _ => rfl
  | b :: bs, s, k => State.loadRun_recast bs (s.setV (BitVec.ofNat 4 k) b) (k + 1)

/-- The checks read SP and I alone. -/
theorem execError_recast (i : Instr) (s : State) : execError i (s.recast timer screen turns) = execError i s := by
  cases i <;> rfl

/-- The timer moves are excused from a change of the timers, CLS and DRW from one of the display. -/
theorem execEffect_recast {i : Instr} (s : State)
    (htimer : timer = id ∨ ∀ x, i ≠ .ldVxDt x ∧ i ≠ .ldDtVx x ∧ i ≠ .ldStVx x)
    (hscreen : screen = id ∨ (i ≠ .cls ∧ ∀ x y n, i ≠ .drw x y n)) :
    execEffect i (s.recast timer screen turns) = (execEffect i s).recast timer screen turns := by
  cases i
  case ldVxDt | ldDtVx | ldStVx =>
    obtain rfl := htimer.resolve_right (by simp)
    rfl
  case cls | drw =>
    obtain rfl := hscreen.resolve_right (by simp)
    rfl
  case ldVxK x =>
    have port : (s.recast timer screen turns).keyPort = s.keyPort := rfl
    simp only [execEffect, port]
    split <;> rfl
  case storeRegs x =>
    simp only [execEffect, State.regRun_recast]
    rfl
  case loadRegs x => exact congrArg State.advance (State.loadRun_recast ..)
  all_goals rfl

/-- What an instruction does not read it carries through. -/
theorem exec_recast {i : Instr} {s t : State} (h : exec i s = .next t)
    (htimer : timer = id ∨ ∀ x, i ≠ .ldVxDt x ∧ i ≠ .ldDtVx x ∧ i ≠ .ldStVx x)
    (hscreen : screen = id ∨ (i ≠ .cls ∧ ∀ x y n, i ≠ .drw x y n)) :
    exec i (s.recast timer screen turns) = .next (t.recast timer screen turns) := by
  obtain ⟨c, a, he, rfl⟩ | ⟨he, rfl⟩ := exec_cases h
  · exact exec_of_error ((execError_recast i s).trans he)
  · rw [← execEffect_recast s htimer hscreen]
    exact exec_of_noError ((execError_recast i s).trans he)

end

/-- Settles O19: a tick rewrites the timers, which only the three timer moves read or write. -/
theorem tickCommutesWithOtherInstructions : Obligations.TickCommutesWithOtherInstructions :=
  fun i s t hi h => by
    rw [State.tick_eq_recast s, State.tick_eq_recast t]
    exact exec_recast h (.inr hi) (.inl rfl)

/-- Settles O25: CLS clears whatever display there is; every other instruction carries it through. -/
theorem displayIsReadOnlyByDrw : Obligations.DisplayIsReadOnlyByDrw := by
  intro i s t d hi h
  by_cases hcls : i = .cls
  · subst hcls
    obtain rfl := exec_next_iff.mp h
    exact ⟨Display.cleared, rfl⟩
  · refine ⟨d, ?_⟩
    rw [State.setFb_eq_recast s, State.setFb_eq_recast t]
    exact exec_recast h (.inl rfl) (.inr ⟨hcls, hi⟩)

/-- Settles O26: no instruction reads or writes the agenda. -/
theorem agendaIsInvisibleToInstructions : Obligations.AgendaIsInvisibleToInstructions :=
  fun i s t ts h => by
    rw [State.setAgenda_eq_recast s, State.setAgenda_eq_recast t]
    exact exec_recast h (.inl rfl) (.inl rfl)

end Sys2Proof.Machine
end

section
/-! SUPPORT. The engine's turn (30_encoding.md R70): its four ends, each on an empty agenda and on an explicit engine turn. -/

namespace Sys2Proof.Machine

theorem engineStep_of_decode {s : State} {w : Word} {i : Instr} (hrun : s.status = .run) (hf : s.fetch = some w)
    (hd : decode w = .ok i) : engineStep s = exec i s := by
  simp only [engineStep, hrun, hf, hd]

theorem engineStep_of_illegal {s : State} {w : Word} {e : DecodeReject} (hrun : s.status = .run)
    (hf : s.fetch = some w) (hd : decode w = .error e) : engineStep s = .next (s.raise .illegalOpcode w 0) := by
  simp only [engineStep, hrun, hf, hd]

theorem engineStep_of_fetchBeyond {s : State} (hrun : s.status = .run) (hf : s.fetch = none) :
    engineStep s = .next (s.raise .outOfRange 0#16 (max s.pc.toNat 4096)) := by
  simp only [engineStep, hrun, hf]
  rfl

theorem engineStep_of_halted {s : State} (hhalt : s.status = .halted) : engineStep s = .fault .halted := by
  simp only [engineStep, hhalt]

theorem State.fetch_eq_of_pc {s : State} (h : s.pc.toNat ≤ 0xFFE) : s.fetch = some (s.mem.readWord s.pc.toNat) :=
  State.fetch_eq_some.mpr ⟨h, rfl⟩

/-- A fact about the engine's step holds of the step on either form of the engine's turn (log entry 1). -/
theorem step_engine_forms {P : State → Host.Outcome State Fault Refusal → Prop} {s : State}
    (h : ∀ ts, P (s.setAgenda ts) (engineStep (s.setAgenda ts))) :
    (s.agenda = [] → P s (step s)) ∧ (∀ rest, s.agenda = .engine :: rest → P (s.setAgenda rest) (step s)) :=
  ⟨fun ha => step_engine ha ▸ h s.agenda, fun rest ha => step_engineTurn ha ▸ h rest⟩

/-- Settles O5: the fetch answers the big-endian word at PC, and the engine runs what it decodes to. -/
theorem stepRunsTheDecodedInstruction : Obligations.StepRunsTheDecodedInstruction := by
  intro s i hrun hpc hd _
  exact step_engine_forms (P := fun u o => o = exec i u)
    fun ts => engineStep_of_decode hrun (State.fetch_eq_of_pc (s := s.setAgenda ts) hpc) hd

/-- Settles O6: the fetch fails, and the engine raises OutOfRange with no instruction word. -/
theorem fetchBeyondMemoryHalts : Obligations.FetchBeyondMemoryHalts := by
  intro s hrun hpc
  have hf : s.fetch = none := State.fetch_eq_none.mpr (by omega)
  have haddr : max s.pc.toNat 4096 < 2 ^ 17 := by have := s.pc.isLt; omega
  exact step_engine_forms (P := fun u o => ∃ t, o = .next t ∧ Raised u t 2 0 (max s.pc.toNat 4096))
    fun ts => ⟨_, engineStep_of_fetchBeyond hrun hf, State.raised_raise _ .outOfRange 0#16 haddr⟩

/-- Settles O7: a word that matches no row is rejected by the decoder, and the engine raises IllegalOpcode with it. -/
theorem illegalWordHalts : Obligations.IllegalWordHalts := by
  intro s hrun hpc hnone
  have hd := noRowMatches_iff_illegal.mp hnone
  rw [← wordOfBytes_toNat]
  exact step_engine_forms (P := fun u o => ∃ t, o = .next t ∧ Raised u t 5 (s.mem.readWord s.pc.toNat).toNat 0)
    fun ts => ⟨_, engineStep_of_illegal hrun (State.fetch_eq_of_pc (s := s.setAgenda ts) hpc) hd,
      State.raised_raise _ .illegalOpcode _ (by decide)⟩

/-- Settles O8: STATUS is looked at before anything else. -/
theorem haltedEngineHasNoStep : Obligations.HaltedEngineHasNoStep := by
  rintro s hhalt (ha | ⟨rest, ha⟩)
  · exact (step_engine ha).trans (engineStep_of_halted hhalt)
  · exact (step_engineTurn ha).trans (engineStep_of_halted hhalt)

end Sys2Proof.Machine
end

section
/-! SUPPORT. The turns of the other agents (00_scope.md R8): the tick, the key event and Reset; and what a step can be. -/

namespace Sys2Proof.Machine

/-! ### The tick -/

theorem step_tick {s : State} {rest : List Turn} (h : s.agenda = .tick :: rest) :
    step s = .next (s.setAgenda rest).tick := step_turn h

theorem tickDown_toNat (b : Byte) : (tickDown b).toNat = b.toNat - 1 := by
  unfold tickDown
  split
  · next h => subst h; rfl
  · next h => bv_omega

theorem State.soundActive_iff (s : State) : s.soundActive = true ↔ 0 < s.st.toNat := by
  rw [State.soundActive, bne_iff_ne, ← BitVec.toNat_ne_iff_ne, Nat.pos_iff_ne_zero]
  rfl

theorem State.iterate_tick_toNat (s : State) (k : Nat) :
    (State.tick^[k] s).dt.toNat = s.dt.toNat - k ∧ (State.tick^[k] s).st.toNat = s.st.toNat - k := by
  induction k with
  | zero => exact ⟨rfl, rfl⟩
  | succ k ih =>
    obtain ⟨hdt, hst⟩ := ih
    rw [Function.iterate_succ_apply', State.tick_dt, State.tick_st, tickDown_toNat, tickDown_toNat, hdt, hst]
    omega

/-- Settles O18: one tick by its definition, `k` ticks by induction. -/
theorem tickDecrementsBothTimers : Obligations.TickDecrementsBothTimers := by
  constructor
  · intro s rest h
    exact ⟨_, step_tick h, tickDown_toNat _, tickDown_toNat _, rfl⟩
  · intro s k
    obtain ⟨hdt, hst⟩ := s.iterate_tick_toNat k
    refine ⟨hdt, hst, ?_⟩
    rw [State.soundActive_iff, hst]
    omega

/-- Settles O20: the sound is the level of ST, after a write as after a tick. -/
theorem soundFollowsTheSoundTimer : Obligations.SoundFollowsTheSoundTimer := by
  constructor
  · intro s x
    exact ⟨_, exec_ldStVx x s, bne_iff_ne⟩
  · intro s
    rw [State.soundActive_iff, State.tick_st, tickDown_toNat]
    omega

/-! ### The key event -/

theorem isKeyWait_iff {i : Instr} : isKeyWait i = true ↔ ∃ x, i = .ldVxK x := by
  cases i <;> simp [isKeyWait]

/-- A key wait is pending exactly when the machine runs and the word at PC is an `Fx0A` (43_host_bridge.md R164). -/
theorem State.keyWaitPending_iff {s : State} :
    s.keyWaitPending = true ↔ s.status = .run ∧ ∃ w x, s.fetch = some w ∧ decode w = .ok (.ldVxK x) := by
  unfold State.keyWaitPending
  cases hs : s.status with
  | halted => simp
  | run =>
    cases hf : s.fetch with
    | none => simp
    | some w =>
      cases hd : decode w with
      | error e => simp [hd]
      | ok i => simp [hd, isKeyWait_iff]

/-- The key event `k` stored, zero-extended, in `V[x]` and consumed (43_host_bridge.md R174). -/
def State.storeKey (s : State) (x k : Nibble) : State := s.takeKey.putResult x (k.setWidth 8)

theorem exec_ldVxK_of_key {s : State} {x k : Nibble} (h : s.keyPort = some k) :
    exec (.ldVxK x) s = .next (s.storeKey x k) := by
  simp only [exec, execLdVxK, h, State.storeKey]

theorem exec_ldVxK_of_noKey {s : State} {x : Nibble} (h : s.keyPort = none) : exec (.ldVxK x) s = .next s := by
  simp only [exec, execLdVxK, h]

/-- What storing and consuming a key event leaves (43_host_bridge.md R174). -/
theorem State.storeKey_spec (s : State) (x k : Nibble) :
    ((s.storeKey x k).getV x).toNat = k.toNat ∧ (s.storeKey x k).keyPort = none ∧ AdvancedBy2 s (s.storeKey x k) ∧
    SameRegs (· = x) s (s.storeKey x k) ∧ (s.storeKey x k).i = s.i ∧ SameMem (fun _ => False) s (s.storeKey x k) ∧
    SameStack s (s.storeKey x k) ∧ SameTimers s (s.storeKey x k) ∧ SameRecord s (s.storeKey x k) ∧
    (s.storeKey x k).fb = s.fb ∧ (s.storeKey x k).draws = s.draws ∧ (s.storeKey x k).agenda = s.agenda := by
  obtain ⟨hregs, hi, hmem, hstack, htimers, hrecord, hfb, hport, hdraws, hagenda⟩ :=
    s.takeKey.onlyRegsChanged_putResult x (k.setWidth 8)
  refine ⟨?_, hport, s.takeKey.advancedBy2_putResult x _, hregs, hi, hmem, hstack, htimers, hrecord, hfb, hdraws, hagenda⟩
  rw [State.storeKey, State.getV_putResult_same, BitVec.toNat_setWidth_of_le (by decide)]

/-- A key event delivered to a pending wait is stored and consumed in the same step. -/
theorem deliverKey_of_pending {s : State} {w : Word} {x k : Nibble} (hrun : s.status = .run) (hf : s.fetch = some w)
    (hd : decode w = .ok (.ldVxK x)) : deliverKey k s = .next (s.storeKey x k) := by
  have hp : s.keyWaitPending = true := State.keyWaitPending_iff.mpr ⟨hrun, w, x, hf, hd⟩
  rw [deliverKey, if_pos hp, engineStep_of_decode (s := { s with keyPort := some k }) hrun hf hd,
    exec_ldVxK_of_key (s := { s with keyPort := some k }) rfl]
  rfl

theorem deliverKey_of_notPending {s : State} {k : Nibble} (h : s.keyWaitPending = false) :
    deliverKey k s = .next s := by
  rw [deliverKey, h]
  rfl

/-- Settles O54: with a key on the port it is stored and consumed, with none the state is the answer. -/
theorem keyWaitStoresTheKey : Obligations.KeyWaitStoresTheKey :=
  ⟨fun s x k h => ⟨_, exec_ldVxK_of_key h, s.storeKey_spec x k⟩, fun _ _ h => exec_ldVxK_of_noKey h⟩

/-! ### Reset -/

theorem imageFits_iff {rom : List Byte} : imageFits rom = true ↔ rom.length ≤ 3584 := decide_eq_true_iff

theorem step_reset_of_fits {s : State} {rom : List Byte} {rest : List Turn} (h : s.agenda = .reset rom :: rest)
    (hfit : rom.length ≤ 3584) : step s = .next { State.loaded rom with agenda := rest, draws := s.draws } := by
  rw [step_turn h]
  exact if_pos (imageFits_iff.mpr hfit)

theorem step_reset_of_oversize {s : State} {rom : List Byte} {rest : List Turn} (h : s.agenda = .reset rom :: rest)
    (hfit : 3584 < rom.length) : step s = .fault .capacityExceeded := by
  rw [step_turn h]
  exact if_neg fun hf => by have := imageFits_iff.mp hf; omega

/-- Settles O24: the capacity check decides between the two. -/
theorem oversizeImageYieldsNoMachine : Obligations.OversizeImageYieldsNoMachine := by
  intro s rom rest h
  by_cases hfit : rom.length ≤ 3584
  · rw [step_reset_of_fits h hfit]
    simp [hfit]
  · rw [step_reset_of_oversize h (by omega)]
    simp
    omega

/-- What a step that goes on can be: an engine step, a tick, a key event that completes a wait or is not seen, or a Reset
(00_scope.md R8). The turn is off the agenda in each. -/
theorem step_cases {s t : State} (h : step s = .next t) :
    engineStep (s.setAgenda s.agenda.tail) = .next t ∨
    t = (s.setAgenda s.agenda.tail).tick ∨
    (∃ w x k, s.status = .run ∧ s.fetch = some w ∧ decode w = .ok (.ldVxK x) ∧
      t = (s.setAgenda s.agenda.tail).storeKey x k) ∨
    t = s.setAgenda s.agenda.tail ∨
    (∃ rom rest, s.agenda = .reset rom :: rest ∧ rom.length ≤ 3584 ∧
      t = { State.loaded rom with agenda := rest, draws := s.draws }) := by
  cases ha : s.agenda with
  | nil =>
    have hs : s.setAgenda [] = s := by rw [← ha]; rfl
    rw [step_engine ha] at h
    exact .inl (by rwa [List.tail_nil, hs])
  | cons turn rest =>
    rw [List.tail_cons]
    cases turn with
    | engine =>
      rw [step_engineTurn ha] at h
      exact .inl h
    | tick =>
      rw [step_tick ha] at h
      cases h
      exact .inr (.inl rfl)
    | key k =>
      rw [step_turn ha] at h
      change deliverKey k (s.setAgenda rest) = .next t at h
      cases hp : (s.setAgenda rest).keyWaitPending with
      | true =>
        obtain ⟨hrun, w, x, hf, hd⟩ := State.keyWaitPending_iff.mp hp
        rw [deliverKey_of_pending hrun hf hd] at h
        cases h
        exact .inr (.inr (.inl ⟨w, x, k, hrun, hf, hd, rfl⟩))
      | false =>
        rw [deliverKey_of_notPending hp] at h
        cases h
        exact .inr (.inr (.inr (.inl rfl)))
    | reset rom =>
      by_cases hfit : rom.length ≤ 3584
      · rw [step_reset_of_fits ha hfit] at h
        cases h
        exact .inr (.inr (.inr (.inr ⟨rom, rest, rfl, hfit, rfl⟩)))
      · rw [step_reset_of_oversize ha (by omega)] at h
        cases h

/-- An engine step from a running machine answers a next state. -/
theorem engineStep_next_or_halted (s : State) :
    (∃ t, engineStep s = .next t) ∨ (engineStep s = .fault .halted ∧ s.status = .halted) := by
  obtain ⟨hhalt, h⟩ | ⟨-, -, h⟩ | ⟨_, _, -, -, -, h⟩ | ⟨_, i, -, -, -, h⟩ := engineStep_cases s
  · exact .inr ⟨h, hhalt⟩
  · exact .inl ⟨_, h⟩
  · exact .inl ⟨_, h⟩
  · exact .inl ⟨_, h.trans (exec_eq_run i s)⟩

/-- A key event always answers a next state: when no wait is pending it is not seen (60_exceptions.md R212). -/
theorem deliverKey_next (k : Nibble) (s : State) : ∃ t, deliverKey k s = .next t := by
  cases hp : s.keyWaitPending with
  | true =>
    obtain ⟨hrun, w, x, hf, hd⟩ := State.keyWaitPending_iff.mp hp
    exact ⟨_, deliverKey_of_pending hrun hf hd⟩
  | false => exact ⟨s, deliverKey_of_notPending hp⟩

/-- Settles O13: `exec` is total; of the turns, only the engine's and a Reset's can stop. -/
theorem stepStopsOnlyAsTheSpecSays : Obligations.StepStopsOnlyAsTheSpecSays := by
  refine ⟨fun i s => ⟨_, exec_eq_run i s⟩, fun s => ?_⟩
  cases ha : s.agenda with
  | nil =>
    rw [step_engine ha]
    exact (engineStep_next_or_halted s).imp_right .inl
  | cons turn rest =>
    cases turn with
    | engine =>
      rw [step_engineTurn ha]
      exact (engineStep_next_or_halted (s.setAgenda rest)).imp_right .inl
    | tick => exact .inl ⟨_, step_tick ha⟩
    | key k =>
      rw [step_turn ha]
      exact .inl (deliverKey_next k _)
    | reset rom =>
      by_cases hfit : rom.length ≤ 3584
      · exact .inl ⟨_, step_reset_of_fits ha hfit⟩
      · exact .inr (.inr ⟨step_reset_of_oversize ha (by omega), rom, rest, rfl, by omega⟩)

/-- Settles O9: a halted engine has no step and no wait is pending; what is left is a tick, an unseen key or a Reset. -/
theorem onlyResetLeavesHalted : Obligations.OnlyResetLeavesHalted := by
  intro s t hhalt h
  obtain he | rfl | ⟨w, x, k, hrun, -⟩ | rfl | ⟨rom, rest, ha, -⟩ := step_cases h
  · cases he.symm.trans (engineStep_of_halted hhalt)
  · exact .inr rfl
  · cases hrun.symm.trans hhalt
  · exact .inr rfl
  · exact .inl ⟨rom, rest, ha⟩

/-- What halting leaves (60_exceptions.md R207): `t` is `s` but for STATUS and the fault record. -/
def HaltedFrom (s t : State) : Prop :=
  t = { s with status := .halted, errCause := t.errCause, errInstr := t.errInstr, errPc := s.pc, errAddr := t.errAddr }

theorem State.haltedFrom_raise (s : State) (c : Cause) (w : Word) (a : Nat) : HaltedFrom s (s.raise c w a) := rfl

/-- The engine halts a running machine only by raising an error. -/
theorem engineStep_haltedFrom {s t : State} (hrun : s.status = .run) (h : engineStep s = .next t)
    (hhalt : t.status = .halted) : HaltedFrom s t := by
  obtain ⟨hs, -⟩ | ⟨-, -, he⟩ | ⟨w, e, -, -, -, he⟩ | ⟨w, i, -, -, -, he⟩ := engineStep_cases s
  · cases hrun.symm.trans hs
  · cases h.symm.trans he
    exact s.haltedFrom_raise ..
  · cases h.symm.trans he
    exact s.haltedFrom_raise ..
  · obtain ⟨c, a, -, rfl⟩ | ⟨-, rfl⟩ := exec_cases (he.symm.trans h)
    · exact s.haltedFrom_raise ..
    · obtain ⟨hstatus, -⟩ := execEffect_sameRecord i s
      rw [hstatus, hrun] at hhalt
      cases hhalt

/-- Settles O10: no other agent halts a running machine, and the engine does so by raising an error alone. -/
theorem trapsArePrecise : Obligations.TrapsArePrecise := by
  intro s t hrun h hhalt
  obtain he | rfl | ⟨w, x, k, -, -, -, rfl⟩ | rfl | ⟨rom, rest, -, -, rfl⟩ := step_cases h
  · exact engineStep_haltedFrom (s := s.setAgenda s.agenda.tail) hrun he hhalt
  · cases hrun.symm.trans hhalt
  · cases hrun.symm.trans hhalt
  · cases hrun.symm.trans hhalt
  · cases hhalt

/-- Settles O21: the delivered key is what the pending wait stores and consumes. -/
theorem keyEventCompletesTheWait : Obligations.KeyEventCompletesTheWait := by
  intro s k x rest w ha hrun hf hd
  obtain ⟨hkey, hport, hpc, hregs, hi, hmem, hstack, htimers, hrecord, hfb, hdraws, hagenda⟩ :=
    (s.setAgenda rest).storeKey_spec x k
  exact ⟨_, (step_turn ha).trans (deliverKey_of_pending (s := s.setAgenda rest) hrun hf hd),
    hkey, hpc, hport, hagenda, hregs, hi, hmem, hstack, htimers, hrecord, hfb, hdraws⟩

/-- Settles O22: in each of the four cases no wait is pending. -/
theorem keyEventIsUnseenOtherwise : Obligations.KeyEventIsUnseenOtherwise := by
  intro s k rest ha hnone
  have hp : (s.setAgenda rest).keyWaitPending = false := by
    rw [Bool.eq_false_iff, ne_eq, State.keyWaitPending_iff]
    rintro ⟨hrun, w, x, hf, hd⟩
    rw [State.setAgenda_status] at hrun
    rw [State.fetch_setAgenda] at hf
    obtain hhalt | hf' | ⟨w', e, hf', hd'⟩ | ⟨w', i, hf', hd', hi⟩ := hnone
    · cases hrun.symm.trans hhalt
    · cases hf.symm.trans hf'
    · cases hf.symm.trans hf'
      cases hd.symm.trans hd'
    · cases hf.symm.trans hf'
      exact hi x (Except.ok.inj (hd'.symm.trans hd))
  rw [step_turn ha]
  exact deliverKey_of_notPending hp

end Sys2Proof.Machine
end

section
/-! SUPPORT. The state that Reset makes (70_reset_and_hazards.md R230 to R234): where the image, the font and the zeros are. -/

namespace Sys2Proof.Machine

theorem length_fontBytes : Config.fontBytes.length = 80 := by decide

/-- Memory after loading an image: the image from 0x200 on, everything else as an unlisted address reads. -/
theorem State.read_loaded_image (rom : List Byte) {k : Nat} (h : k < rom.length) :
    (State.loaded rom).mem.read (0x200 + k) = rom[k] :=
  Memory.read_writeRun_inside rom [] 0x200 k h

theorem State.read_loaded_outside (rom : List Byte) {a : Nat} (h : a < 0x200 ∨ 0x200 + rom.length ≤ a) :
    (State.loaded rom).mem.read a = Memory.unlisted a :=
  Memory.read_writeRun_outside rom [] 0x200 h

theorem Memory.unlisted_font {a : Nat} (h : a < Config.fontBytes.length) : Memory.unlisted a = Config.fontBytes[a] := by
  rw [Memory.unlisted, List.getD_eq_getElem _ _ h]

theorem Memory.unlisted_beyond_font {a : Nat} (h : 0x50 ≤ a) : Memory.unlisted a = 0#8 :=
  List.getD_eq_default _ _ (by rw [length_fontBytes]; exact h)

theorem State.wf_loaded {rom : List Byte} (h : rom.length ≤ 3584) : (State.loaded rom).mem.wf = true :=
  Memory.wf_writeRun rom (m := []) (by simp only [Config.programBase, Config.memSize]; omega) rfl

theorem State.getV_reset (r : Nibble) : State.reset.getV r = 0#8 := by
  simp only [State.getV, State.reset, Vector.getElem_replicate]

theorem State.stack_reset (k : Fin 16) : State.reset.stack[k] = 0#16 := by
  simp only [State.reset, Fin.getElem_fin, Vector.getElem_replicate]

/-- Settles O23: the image is written over a memory of font and zeros; all other fields are those of `State.reset`. -/
theorem resetLoadsTheImage : Obligations.ResetLoadsTheImage := by
  intro s rom rest ha hfit
  have font : ∀ (a : Nat) (h : a < Config.fontBytes.length), (State.loaded rom).mem.read a = Config.fontBytes[a] := by
    intro a h
    have h80 := h
    rw [length_fontBytes] at h80
    rw [State.read_loaded_outside rom (.inl (by omega)), Memory.unlisted_font h]
  have zeros : ∀ a : Nat, (0x50 ≤ a ∧ a < 0x200) ∨ 0x200 + rom.length ≤ a →
      (State.loaded rom).mem.read a = 0#8 := by
    intro a h
    rw [State.read_loaded_outside rom (by omega), Memory.unlisted_beyond_font (by omega)]
  exact ⟨_, step_reset_of_fits ha hfit, fun _ h => State.read_loaded_image rom h, font, zeros, State.getV_reset, rfl, rfl,
    rfl, State.stack_reset, rfl, rfl, rfl, rfl, rfl, rfl, rfl, Display.pixel_cleared, State.wf_loaded hfit⟩

end Sys2Proof.Machine
end

section
/-! SUPPORT. The invariant `State.Inv`, part by part: what raising an error, an effect and every agent's turn do to it. -/

namespace Sys2Proof.Machine

/-- Settles O14: the reset state evaluated. -/
theorem resetMeetsTheInvariant : Obligations.ResetMeetsTheInvariant := by
  unfold Obligations.ResetMeetsTheInvariant
  decide

/-! ### Raising an error -/

/-- An error raised from a clean record leaves one that names a run-time cause (10_state.md R25). -/
theorem State.recordOk_raise (s : State) {c : Cause} {w : Word} {a : Nat}
    (h : (c = .outOfRange ∧ 4096 ≤ a ∧ a < 2 ^ 17) ∨ (c ≠ .outOfRange ∧ a = 0)) : (s.raise c w a).RecordOk := by
  refine ⟨fun hr => (by cases hr), fun _ => ⟨rfl, ?_⟩⟩
  obtain ⟨rfl, hlo, hhi⟩ | ⟨hc, rfl⟩ := h
  · refine .inl ⟨rfl, ?_⟩
    rwa [State.raise_errAddr, BitVec.toNat_ofNat, Nat.mod_eq_of_lt hhi]
  · refine .inr ⟨?_, rfl⟩
    cases c
    · exact absurd rfl hc
    · exact .inl rfl
    · exact .inr (.inl rfl)
    · exact .inr (.inr rfl)

theorem State.inv_raise {s : State} (hs : s.Inv) {c : Cause} {w : Word} {a : Nat}
    (h : (c = .outOfRange ∧ 4096 ≤ a ∧ a < 2 ^ 17) ∨ (c ≠ .outOfRange ∧ a = 0)) : (s.raise c w a).Inv := by
  obtain ⟨hmem, hsp, hpc, hstack, hport, -⟩ := hs
  exact ⟨hmem, hsp, hpc, hstack, hport, s.recordOk_raise h⟩

/-- Every error of an execute phase names such a cause and address. -/
theorem execError_address {i : Instr} {s : State} {c : Cause} {a : Nat} (h : execError i s = some (c, a)) :
    (c = .outOfRange ∧ 4096 ≤ a ∧ a < 2 ^ 17) ∨ (c ≠ .outOfRange ∧ a = 0) := by
  have hi := s.i.isLt
  obtain ⟨-, rfl, rfl⟩ | ⟨-, rfl, rfl⟩ | ⟨-, rfl, rfl⟩ := execError_eq_some.mp h
  · exact .inr ⟨by decide, rfl⟩
  · exact .inr ⟨by decide, rfl⟩
  · exact .inl ⟨rfl, by omega, by omega⟩

/-! ### An effect -/

/-- A store keeps memory canonical, its range having been checked. -/
theorem execEffect_mem_wf {i : Instr} {s : State} (hmem : s.mem.wf = true) (he : execError i s = none) :
    (execEffect i s).mem.wf = true := by
  by_cases hsame : (execEffect i s).mem = s.mem
  · rwa [hsame]
  · obtain ⟨x, rfl | rfl⟩ := (writesOnlyItsOwn_effect i s).mem hsame
    · have hrange := rangeError_eq_none.mp (Option.map_eq_none_iff.mp he)
      exact Memory.wf_writeRun _ (by simpa [Config.memSize] using hrange) hmem
    · have hrange := rangeError_eq_none.mp (Option.map_eq_none_iff.mp he)
      exact Memory.wf_writeRun _ (by simpa [Config.memSize, regCount] using hrange) hmem

theorem execError_ret_eq_none {s : State} : execError .ret s = none ↔ s.sp ≠ 0#5 := by
  simp [execError]

theorem execError_call_eq_none {s : State} {nnn : Addr} : execError (.call nnn) s = none ↔ s.sp.toNat < 16 := by
  simp only [execError, ite_eq_right_iff, reduceCtorEq, imp_false, Nat.not_le]
  rfl

/-- SP moves between 0 and 16, CALL and RET having been checked. -/
theorem execEffect_spOk {i : Instr} {s : State} (hsp : s.SpOk) (he : execError i s = none) : (execEffect i s).SpOk := by
  by_cases hsame : (execEffect i s).sp = s.sp
  · rwa [State.SpOk, hsame]
  · obtain rfl | ⟨nnn, rfl⟩ := (writesOnlyItsOwn_effect i s).sp hsame
    · have := execError_ret_eq_none.mp he
      change (s.sp - 1#5).toNat ≤ 16
      bv_omega
    · have := execError_call_eq_none.mp he
      change (s.sp + 1#5).toNat ≤ 16
      bv_omega

/-- Only CALL writes the stack, and it writes its own PC. -/
theorem execEffect_stackOk {i : Instr} {s : State} (hpc : s.pc.toNat ≤ 0xFFE) (hstack : s.StackOk) :
    (execEffect i s).StackOk := by
  by_cases hsame : (execEffect i s).stack = s.stack
  · simpa only [State.StackOk, hsame] using hstack
  · obtain ⟨nnn, rfl⟩ := (writesOnlyItsOwn_effect i s).stack hsame
    intro k
    change (s.stack.setIfInBounds s.sp.toNat s.pc)[k].toNat ≤ 0xFFE
    rw [Fin.getElem_fin, Vector.getElem_setIfInBounds]
    split
    · exact hpc
    · exact hstack k

theorem State.top_le {s : State} (hstack : s.StackOk) : s.top.toNat ≤ 0xFFE := by
  unfold State.top
  by_cases h : s.sp.toNat - 1 < 16
  · rw [Vector.getElem?_eq_getElem h]
    exact hstack ⟨_, h⟩
  · rw [Vector.getElem?_eq_none (by omega)]
    decide

theorem State.pcOk_advance {s : State} (hpc : s.pc.toNat ≤ 0xFFE) : s.advance.PcOk := by
  rw [State.PcOk, State.advance_pc_toNat]
  omega

theorem State.pcOk_skipIf {s : State} (c : Bool) (hpc : s.pc.toNat ≤ 0xFFE) : (s.skipIf c).PcOk := by
  rw [State.PcOk, State.skipIf_pc_toNat]
  split <;> omega

/-- The largest PC a step can write is that of JP V0 (10_state.md R17). -/
theorem execEffect_pcOk (i : Instr) {s : State} (hpc : s.pc.toNat ≤ 0xFFE) (hstack : s.StackOk) :
    (execEffect i s).PcOk := by
  cases i
  case ret =>
    have := s.top_le hstack
    change (s.top + 2#16).toNat ≤ 0x10FE
    bv_omega
  case jp nnn | call nnn =>
    have := nnn.isLt
    change (addrOperand nnn).toNat ≤ 0x10FE
    rw [addrOperand_toNat]
    omega
  case jpV0 nnn =>
    have := nnn.isLt
    have := (s.getV 0#4).isLt
    change (addrOperand nnn + s.getVWord 0#4).toNat ≤ 0x10FE
    rw [jpV0Target_toNat]
    omega
  case seImm | sneImm | seReg | sneReg => exact s.pcOk_skipIf _ hpc
  case skp | sknp => exact s.useDraw.pcOk_skipIf _ hpc
  case ldVxK x =>
    simp only [execEffect]
    split
    · exact s.pcOk_advance hpc
    · exact Nat.le_trans hpc (by decide)
  case loadRegs x =>
    rw [execEffect, State.loadRun_eq]
    exact s.pcOk_advance hpc
  all_goals exact s.pcOk_advance hpc

theorem execEffect_portOk (i : Instr) {s : State} (hport : s.PortOk) : (execEffect i s).PortOk := by
  by_cases hsame : (execEffect i s).keyPort = s.keyPort
  · rwa [State.PortOk, hsame]
  · obtain ⟨x, rfl⟩ := (writesOnlyItsOwn_effect i s).keyPort hsame
    simp only [State.PortOk, execEffect, hport]

theorem State.recordOk_of_same {s t : State} (hrun : s.status = .run) (hrec : s.RecordOk) (h : SameRecord s t) :
    t.RecordOk := by
  obtain ⟨hclean, -⟩ := hrec
  obtain ⟨hstatus, hcause, hinstr, hpc, haddr⟩ := h
  refine ⟨fun _ => ?_, fun hhalt => ?_⟩
  · rw [hcause, hinstr, hpc, haddr]
    exact hclean hrun
  · rw [hstatus, hrun] at hhalt
    cases hhalt

theorem execEffect_inv {i : Instr} {s : State} (hrun : s.status = .run) (hfetched : s.pc.toNat ≤ 0xFFE) (hs : s.Inv)
    (he : execError i s = none) : (execEffect i s).Inv := by
  obtain ⟨hmem, hsp, -, hstack, hport, hrec⟩ := hs
  exact ⟨execEffect_mem_wf hmem he, execEffect_spOk hsp he, execEffect_pcOk i hfetched hstack,
    execEffect_stackOk hfetched hstack, execEffect_portOk i hport,
    State.recordOk_of_same hrun hrec (execEffect_sameRecord i s)⟩

/-! ### The turns -/

theorem engineStep_inv {s t : State} (hs : s.Inv) (h : engineStep s = .next t) : t.Inv := by
  have hpc := s.pc.isLt
  obtain ⟨-, he⟩ | ⟨-, -, he⟩ | ⟨w, e, -, -, -, he⟩ | ⟨w, i, hrun, hf, -, he⟩ := engineStep_cases s
  · cases h.symm.trans he
  · cases h.symm.trans he
    exact State.inv_raise hs (.inl ⟨rfl, by omega, by omega⟩)
  · cases h.symm.trans he
    exact State.inv_raise hs (.inr ⟨by decide, rfl⟩)
  · obtain ⟨c, a, herr, rfl⟩ | ⟨herr, rfl⟩ := exec_cases (he.symm.trans h)
    · exact State.inv_raise hs (execError_address herr)
    · obtain ⟨hfetched, -⟩ := State.fetch_eq_some.mp hf
      exact execEffect_inv hrun hfetched hs herr

/-- The key a turn delivers is consumed in the same step, so none is latched. -/
theorem State.storeKey_inv {s : State} {x k : Nibble} (hs : s.Inv) (hrun : s.status = .run)
    (hfetched : s.pc.toNat ≤ 0xFFE) : (s.storeKey x k).Inv := by
  obtain ⟨hmem, hsp, -, hstack, -, hrec⟩ := hs
  exact ⟨hmem, hsp, s.pcOk_advance hfetched, hstack, rfl, State.recordOk_of_same hrun hrec ⟨rfl, rfl, rfl, rfl, rfl⟩⟩

/-- A machine just loaded meets the invariant: all but memory is as in `State.reset`. -/
theorem State.loaded_inv {rom : List Byte} (h : rom.length ≤ 3584) : (State.loaded rom).Inv := by
  obtain ⟨-, hrest⟩ := resetMeetsTheInvariant
  exact ⟨State.wf_loaded h, hrest⟩

/-- Settles O15: the invariant agent by agent; the tick, an unseen key and the agenda touch nothing it speaks of. -/
theorem everyStepKeepsTheInvariant : Obligations.EveryStepKeepsTheInvariant := by
  intro s t hs h
  have hs' : (s.setAgenda s.agenda.tail).Inv := hs
  obtain he | rfl | ⟨w, x, k, hrun, hf, -, rfl⟩ | rfl | ⟨rom, rest, -, hfit, rfl⟩ := step_cases h
  · exact engineStep_inv hs' he
  · exact hs'
  · obtain ⟨hfetched, -⟩ := State.fetch_eq_some.mp hf
    exact State.storeKey_inv hs' hrun hfetched
  · exact hs'
  · exact State.loaded_inv hfit

end Sys2Proof.Machine
end

section
/-! SUPPORT. Control transfer through the stack and the register skips (40_control_transfer.md). -/

namespace Sys2Proof.Machine

theorem exec_seReg (x y : Nibble) (s : State) : exec (.seReg x y) s = .next (s.skipIf (s.getV x == s.getV y)) := rfl

theorem exec_sneReg (x y : Nibble) (s : State) : exec (.sneReg x y) s = .next (s.skipIf (s.getV x != s.getV y)) := rfl

theorem exec_call_of_room {s : State} {nnn : Addr} (h : s.sp.toNat < 16) :
    exec (.call nnn) s = .next ((s.push s.pc).setPc (addrOperand nnn)) :=
  exec_of_noError (execError_call_eq_none.mpr h)

theorem exec_call_of_full {s : State} {nnn : Addr} (h : 16 ≤ s.sp.toNat) :
    exec (.call nnn) s = .next (s.raise .stackOverflow (encode (.call nnn)) 0) :=
  exec_of_error (execError_eq_some.mpr (.inr (.inl ⟨⟨⟨nnn, rfl⟩, h⟩, rfl, rfl⟩)))

theorem exec_ret_of_call {s : State} (h : s.sp ≠ 0#5) : exec .ret s = .next (s.drop.setPc (s.top + 2#16)) :=
  exec_of_noError (execError_ret_eq_none.mpr h)

theorem exec_ret_of_empty {s : State} (h : s.sp = 0#5) :
    exec .ret s = .next (s.raise .stackUnderflow (encode .ret) 0) :=
  exec_of_error (execError_eq_some.mpr (.inl ⟨⟨rfl, h⟩, rfl, rfl⟩))

theorem State.push_sp_toNat {s : State} (w : Word) (h : s.sp.toNat < 16) : (s.push w).sp.toNat = s.sp.toNat + 1 := by
  rw [State.push_sp]
  bv_omega

theorem State.drop_sp_toNat {s : State} (h : s.sp ≠ 0#5) : s.drop.sp.toNat = s.sp.toNat - 1 := by
  rw [State.drop_sp]
  bv_omega

/-- A push writes the entry at SP and no other. -/
theorem State.getElem_push_stack (s : State) (w : Word) (k : Fin 16) :
    (s.push w).stack[k] = if k.val = s.sp.toNat then w else s.stack[k] := by
  simp only [State.push_stack, Fin.getElem_fin, Vector.getElem_setIfInBounds, eq_comm]

theorem State.top_eq_getElem {s : State} (h : s.sp.toNat - 1 < 16) : s.top = s.stack[s.sp.toNat - 1] := by
  rw [State.top, Vector.getElem?_eq_getElem h, Option.getD_some]

/-- Settles O30: both are `skipIf` on the comparison of two registers; their words need `n = 0`. -/
theorem registerSkipsAdvanceByFourOrTwo : Obligations.RegisterSkipsAdvanceByFourOrTwo := by
  refine ⟨fun s x y => ?seReg, fun s x y => ?sneReg, fun x y n hn => ?illegal⟩
  case seReg => exact ⟨_, exec_seReg x y s, s.skipIf_advancesByFourOrTwo (byte_beq_iff_toNat_eq _ _)⟩
  case sneReg => exact ⟨_, exec_sneReg x y s, s.skipIf_advancesByFourOrTwo (byte_bne_iff_toNat_ne _ _)⟩
  case illegal => exact decode_registerSkip_illegal x y hn

/-- Settles O31: below depth 16 CALL pushes its PC and jumps. -/
theorem callPushesItsAddress : Obligations.CallPushesItsAddress := fun s nnn h =>
  ⟨_, exec_call_of_room h, addrOperand_toNat nnn, State.push_sp_toNat s.pc h, s.getElem_push_stack s.pc, fun _ _ => rfl, rfl,
    fun _ _ => rfl, ⟨rfl, rfl⟩, ⟨rfl, rfl, rfl, rfl, rfl⟩, ⟨rfl, rfl, rfl, rfl⟩⟩

/-- Settles O32: at depth 16 CALL raises StackOverflow with its own word. -/
theorem callOverflowHalts : Obligations.CallOverflowHalts := by
  intro s nnn h
  have word : (encode (.call nnn)).toNat = 0x2000 + nnn.toNat := wordA_toNat 0x2#4 nnn
  exact ⟨_, exec_call_of_full (Nat.le_of_eq h.symm), word ▸ s.raised_raise .stackOverflow _ (by decide)⟩

/-- Settles O33: above depth 0 RET takes the top entry, plus 2, and leaves the entries. -/
theorem retReturnsPastTheCall : Obligations.RetReturnsPastTheCall := by
  intro s h0 h
  have hsp : s.sp ≠ 0#5 := fun e => by simp [e] at h0
  have hpc : (s.top + 2#16).toNat = ((s.stack[s.sp.toNat - 1]'(by omega)).toNat + 2) % 65536 := by
    rw [BitVec.toNat_add, State.top_eq_getElem (by omega)]
    rfl
  exact ⟨_, exec_ret_of_call hsp, hpc, State.drop_sp_toNat hsp, rfl, fun _ _ => rfl, rfl, fun _ _ => rfl, ⟨rfl, rfl⟩,
    ⟨rfl, rfl, rfl, rfl, rfl⟩, ⟨rfl, rfl, rfl, rfl⟩⟩

/-- Settles O34: at depth 0 RET raises StackUnderflow with its own word. -/
theorem retUnderflowHalts : Obligations.RetUnderflowHalts := fun s h =>
  ⟨_, exec_ret_of_empty h, s.raised_raise .stackUnderflow 0x00EE#16 (by decide)⟩

/-- Settles O35: the entry the RET takes is the one the CALL wrote, and SP comes back. -/
theorem callThenReturnComesBack : Obligations.CallThenReturnComesBack := by
  intro s t u nnn h hcall hstack hsp
  cases hcall.symm.trans (exec_call_of_room h)
  have husp : u.sp = s.sp + 1#5 := hsp
  have hne : u.sp ≠ 0#5 := by bv_omega
  have hidx : u.sp.toNat - 1 = s.sp.toNat := by bv_omega
  have hentries : ∀ k : Fin 16, u.stack[k] = if k.val = s.sp.toNat then s.pc else s.stack[k] := fun k => by
    rw [hstack]
    exact s.getElem_push_stack s.pc k
  have htop : u.top = s.pc := by
    rw [State.top_eq_getElem (by omega)]
    exact (hentries ⟨_, by omega⟩).trans (if_pos hidx)
  refine ⟨_, exec_ret_of_call hne, ?_, ?_, fun k hk => ?_⟩
  · rw [State.setPc_pc, htop]
  · rw [State.setPc_sp, State.drop_sp, husp, BitVec.add_sub_cancel]
  · exact (hentries k).trans (if_neg (by omega))

end Sys2Proof.Machine
end

section
/-! SUPPORT. The register operations (41_load_alu.md) and ADD I (42_index_memory.md): bits, sums and flags as integers. -/

namespace Sys2Proof.Machine

theorem exec_orReg (x y : Nibble) (s : State) :
    exec (.orReg x y) s = .next (s.putResult x (s.getV x ||| s.getV y)) := rfl

theorem exec_andReg (x y : Nibble) (s : State) :
    exec (.andReg x y) s = .next (s.putResult x (s.getV x &&& s.getV y)) := rfl

theorem exec_xorReg (x y : Nibble) (s : State) :
    exec (.xorReg x y) s = .next (s.putResult x (s.getV x ^^^ s.getV y)) := rfl

theorem exec_addReg (x y : Nibble) (s : State) : exec (.addReg x y) s =
    .next (s.putResultFlag x (s.getV x + s.getV y) (carryOut (s.getV x) (s.getV y))) := rfl

theorem exec_subReg (x y : Nibble) (s : State) : exec (.subReg x y) s =
    .next (s.putResultFlag x (s.getV x - s.getV y) (notBorrow (s.getV x) (s.getV y))) := rfl

theorem exec_subnReg (x y : Nibble) (s : State) : exec (.subnReg x y) s =
    .next (s.putResultFlag x (s.getV y - s.getV x) (notBorrow (s.getV y) (s.getV x))) := rfl

theorem exec_shr (x y : Nibble) (s : State) :
    exec (.shr x y) s = .next (s.putResultFlag x (s.getV x >>> 1) (lowBitOut (s.getV x))) := rfl

theorem exec_shl (x y : Nibble) (s : State) :
    exec (.shl x y) s = .next (s.putResultFlag x (s.getV x <<< 1) (highBitOut (s.getV x))) := rfl

theorem exec_rnd (x : Nibble) (kk : Byte) (s : State) :
    exec (.rnd x kk) s = .next (s.useDraw.putResult x (Config.randomByte s.draws &&& kk)) := rfl

theorem exec_addI (x : Nibble) (s : State) : exec (.addI x) s = .next (s.setI (s.i + s.getVWord x)).advance := rfl

/-- The flags as integers (10_state.md R12). -/
theorem flagByte_carryOut_toNat (a b : Byte) :
    (flagByte (carryOut a b)).toNat = if 255 < a.toNat + b.toNat then 1 else 0 := by
  simp only [flagByte_toNat, carryOut, decide_eq_true_eq]

theorem flagByte_notBorrow_toNat (a b : Byte) :
    (flagByte (notBorrow a b)).toNat = if b.toNat ≤ a.toNat then 1 else 0 := by
  simp only [flagByte_toNat, notBorrow, decide_eq_true_eq]

theorem flagByte_lowBitOut_toNat (a : Byte) : (flagByte (lowBitOut a)).toNat = a.toNat % 2 := by
  rw [flagByte_toNat, lowBitOut, BitVec.getLsbD, Nat.testBit_zero]
  simp only [decide_eq_true_eq]
  split <;> omega

theorem flagByte_highBitOut_toNat (a : Byte) : (flagByte (highBitOut a)).toNat = a.toNat / 128 := by
  have := a.isLt
  rw [flagByte_toNat, highBitOut, BitVec.getLsbD, Nat.testBit_eq_decide_div_mod_eq]
  simp only [decide_eq_true_eq]
  split <;> omega

/-- The result of a flag instruction stays in its register unless that is VF, and VF ends holding the flag
(10_state.md R13, decision D4). -/
theorem State.getV_putResultFlag_result {s : State} {x : Nibble} {r : Byte} {f : Bool} (hx : x ≠ 15#4) :
    (s.putResultFlag x r f).getV x = r := by
  rw [State.getV_putResultFlag, if_neg hx, if_pos rfl]

@[simp] theorem State.getV_putResultFlag_vf (s : State) (x : Nibble) (r : Byte) (f : Bool) :
    (s.putResultFlag x r f).getV 15#4 = flagByte f := by
  rw [State.getV_putResultFlag, if_pos rfl]

/-- What a flag instruction does, its result and flag given as integers. -/
theorem State.putResultFlag_spec (s : State) (x : Nibble) {r : Byte} {f : Bool} {result flag : Nat}
    (hr : r.toNat = result) (hf : (flagByte f).toNat = flag) :
    (x ≠ 15#4 → ((s.putResultFlag x r f).getV x).toNat = result) ∧
    ((s.putResultFlag x r f).getV 15#4).toNat = flag ∧ AdvancedBy2 s (s.putResultFlag x r f) ∧
    OnlyRegsChanged (fun y => y = x ∨ y = 15#4) s (s.putResultFlag x r f) :=
  ⟨fun hx => by rw [State.getV_putResultFlag_result hx, hr], by rw [State.getV_putResultFlag_vf, hf],
    ((s.setV x r).setV 15#4 (flagByte f)).advancedBy2_advance, s.onlyRegsChanged_putResultFlag x r f⟩

/-- What an instruction without a flag does, its result given bit by bit. -/
theorem State.putResult_bits (s : State) (x : Nibble) {r : Byte} {bit : Nat → Bool} (hr : ∀ k, r.getLsbD k = bit k) :
    (∀ k, ((s.putResult x r).getV x).getLsbD k = bit k) ∧ AdvancedBy2 s (s.putResult x r) ∧
    OnlyRegsChanged (· = x) s (s.putResult x r) :=
  ⟨fun k => by rw [State.getV_putResult_same, hr], s.advancedBy2_putResult x r, s.onlyRegsChanged_putResult x r⟩

/-- Settles O37: the three are `putResult` of the bitwise operation. -/
theorem logicOperationsWriteOnlyVx : Obligations.LogicOperationsWriteOnlyVx :=
  ⟨fun s x y => ⟨_, exec_orReg x y s, s.putResult_bits x fun _ => BitVec.getLsbD_or⟩,
    fun s x y => ⟨_, exec_andReg x y s, s.putResult_bits x fun _ => BitVec.getLsbD_and⟩,
    fun s x y => ⟨_, exec_xorReg x y s, s.putResult_bits x fun _ => BitVec.getLsbD_xor⟩⟩

/-- Settles O38: the sum wraps at 256 and the flag is the carry. -/
theorem addSetsTheCarry : Obligations.AddSetsTheCarry := fun s x y =>
  ⟨_, exec_addReg x y s, s.putResultFlag_spec x (BitVec.toNat_add ..) (flagByte_carryOut_toNat ..)⟩

theorem byte_sub_toNat (a b : Byte) : (a - b).toNat = (a.toNat + 256 - b.toNat) % 256 := by
  bv_omega

/-- Settles O39: the difference wraps at 256 and the flag is not borrow, both ways round. -/
theorem subtractionsSetNotBorrow : Obligations.SubtractionsSetNotBorrow :=
  ⟨fun s x y => ⟨_, exec_subReg x y s, s.putResultFlag_spec x (byte_sub_toNat ..) (flagByte_notBorrow_toNat ..)⟩,
    fun s x y => ⟨_, exec_subnReg x y s, s.putResultFlag_spec x (byte_sub_toNat ..) (flagByte_notBorrow_toNat ..)⟩⟩

theorem byte_shiftRight_one_toNat (a : Byte) : (a >>> 1).toNat = a.toNat / 2 := by
  rw [BitVec.toNat_ushiftRight, Nat.shiftRight_eq_div_pow, pow_one]

theorem byte_shiftLeft_one_toNat (a : Byte) : (a <<< 1).toNat = a.toNat * 2 % 256 := by
  rw [BitVec.toNat_shiftLeft, Nat.shiftLeft_eq, pow_one]

/-- Settles O40: a shift by one halves or doubles, and the flag is the bit that leaves. -/
theorem shiftsSetTheBitShiftedOut : Obligations.ShiftsSetTheBitShiftedOut :=
  ⟨fun s x y => ⟨_, exec_shr x y s,
      s.putResultFlag_spec x (byte_shiftRight_one_toNat _) (flagByte_lowBitOut_toNat _)⟩,
    fun s x y => ⟨_, exec_shl x y s,
      s.putResultFlag_spec x (byte_shiftLeft_one_toNat _) (flagByte_highBitOut_toNat _)⟩⟩

/-- A byte under a mask has no bit that the mask lacks. -/
theorem byte_and_mask_and_not (a kk : Byte) : (a &&& kk) &&& ~~~kk = 0#8 := by
  rw [BitVec.and_assoc, BitVec.and_not_self]
  exact BitVec.and_zero

/-- Settles O41: the draw under the mask is a result without a flag, written after the draw is used up. -/
theorem rndMasksTheDraw : Obligations.RndMasksTheDraw := by
  intro s x kk
  obtain ⟨hbits, hpc, hregs, hi, hmem, hstack, htimers, hrecord, hfb, hport, hdraws, hagenda⟩ :=
    s.useDraw.putResult_bits x (r := Config.randomByte s.draws &&& kk) fun _ => BitVec.getLsbD_and
  refine ⟨_, exec_rnd x kk s, hbits, ?_, hpc, hdraws, hregs, hi, hmem, hstack, htimers, hrecord, hfb, hport, hagenda⟩
  rw [State.getV_putResult_same, byte_and_mask_and_not]

/-- Settles O43: I takes the 16-bit sum. -/
theorem addIndexWrapsAt65536 : Obligations.AddIndexWrapsAt65536 := by
  intro s x
  have sum : (s.i + s.getVWord x).toNat = (s.i.toNat + (s.getV x).toNat) % 65536 := by
    rw [BitVec.toNat_add, State.getVWord_toNat]
  exact ⟨_, exec_addI x s, sum, s.advancedBy2_setI _, s.onlyIChanged_setI _⟩

end Sys2Proof.Machine
end

section
/-! SUPPORT. The Host Bridge (43_host_bridge.md): CLS and the key skips. -/

namespace Sys2Proof.Machine

theorem exec_cls (s : State) : exec .cls s = .next (s.setFb Display.cleared).advance := rfl

theorem exec_skp (x : Nibble) (s : State) : exec (.skp x) s = .next (s.useDraw.skipIf (s.keyAnswer x)) := rfl

theorem exec_sknp (x : Nibble) (s : State) : exec (.sknp x) s = .next (s.useDraw.skipIf (!s.keyAnswer x)) := rfl

/-- Settles O50: the display is replaced by the cleared one. -/
theorem clsUnsetsEveryPixel : Obligations.ClsUnsetsEveryPixel := fun s =>
  ⟨_, exec_cls s, Display.pixel_cleared, (s.setFb Display.cleared).advancedBy2_advance, fun _ _ => rfl, rfl, fun _ _ => rfl,
    ⟨rfl, rfl⟩, ⟨rfl, rfl⟩, ⟨rfl, rfl, rfl, rfl, rfl⟩, rfl, rfl, rfl⟩

/-- The key asked for is the low nibble of `V[x]` (decision D13). -/
theorem State.keyAnswer_eq (s : State) (x : Nibble) :
    s.keyAnswer x = Config.keyIsDown s.draws (BitVec.ofNat 4 ((s.getV x).toNat % 16)) := by
  have key : s.getVNibble x = BitVec.ofNat 4 ((s.getV x).toNat % 16) := by
    apply BitVec.eq_of_toNat_eq
    rw [State.getVNibble_toNat, BitVec.toNat_ofNat]
    omega
  rw [State.keyAnswer, key]

/-- What a skip does after a draw is used up: the skip moves PC, and nothing else but the draw counter changes. -/
theorem State.useDraw_skipIf_spec (s : State) {c : Bool} {p : Prop} [Decidable p] (h : c = true ↔ p) :
    (s.useDraw.skipIf c).pc.toNat = (s.pc.toNat + if p then 4 else 2) % 65536 ∧
    (s.useDraw.skipIf c).draws = s.draws + 1 ∧ SameRegs (fun _ => False) s (s.useDraw.skipIf c) ∧
    (s.useDraw.skipIf c).i = s.i ∧ SameMem (fun _ => False) s (s.useDraw.skipIf c) ∧
    SameStack s (s.useDraw.skipIf c) ∧ SameTimers s (s.useDraw.skipIf c) ∧ SameRecord s (s.useDraw.skipIf c) ∧
    (s.useDraw.skipIf c).fb = s.fb ∧ (s.useDraw.skipIf c).keyPort = s.keyPort ∧
    (s.useDraw.skipIf c).agenda = s.agenda := by
  obtain ⟨hpc, hregs, hi, hmem, hstack, htimers, hrecord, hfb, hport, hdraws, hagenda⟩ :=
    s.useDraw.skipIf_advancesByFourOrTwo h
  exact ⟨hpc, hdraws, hregs, hi, hmem, hstack, htimers, hrecord, hfb, hport, hagenda⟩

/-- Settles O53: both are `skipIf` on the host's answer after one draw is used up. -/
theorem keySkipsFollowTheAnswer : Obligations.KeySkipsFollowTheAnswer := by
  constructor
  · intro s x
    rw [← State.keyAnswer_eq]
    exact ⟨_, exec_skp x s, s.useDraw_skipIf_spec Iff.rfl⟩
  · intro s x
    have skipped := s.useDraw_skipIf_spec (c := !s.keyAnswer x) (p := ¬ s.keyAnswer x = true) (by simp)
    rw [ite_not] at skipped
    rw [← State.keyAnswer_eq]
    exact ⟨_, exec_sknp x s, skipped⟩

end Sys2Proof.Machine
end

section
/-! SUPPORT. The instructions that access memory through I (42_index_memory.md), their range being in memory. -/

namespace Sys2Proof.Machine

/-- Bytes stored from I on, and the advance. -/
def State.storeRun (s : State) (bs : List Byte) : State := (s.setMem (s.mem.writeRun s.i.toNat bs)).advance

theorem exec_ldB_of_inRange {s : State} {x : Nibble} (h : s.i.toNat + 2 < 4096) :
    exec (.ldB x) s = .next (s.storeRun (bcdDigits (s.getV x))) :=
  guardRange_ok (.inr (by simp only [State.base]; omega))

theorem exec_storeRegs_of_inRange {s : State} {x : Nibble} (h : s.i.toNat + x.toNat < 4096) :
    exec (.storeRegs x) s = .next (s.storeRun (s.regRun 0 (x.toNat + 1))) :=
  guardRange_ok (.inr (by simp only [State.base, regCount]; omega))

theorem exec_loadRegs_of_inRange {s : State} {x : Nibble} (h : s.i.toNat + x.toNat < 4096) :
    exec (.loadRegs x) s = .next (s.loadRun 0 (s.mem.readRun s.i.toNat (x.toNat + 1))).advance :=
  guardRange_ok (.inr (by simp only [State.base, regCount]; omega))

/-- Storing bytes from I on leaves every other byte, PC being advanced and all else as before. -/
theorem State.storeRun_frame (s : State) (bs : List Byte) :
    SameMem (fun a => s.i.toNat ≤ a ∧ a < s.i.toNat + bs.length) s (s.storeRun bs) ∧ AdvancedBy2 s (s.storeRun bs) ∧
    SameRegs (fun _ => False) s (s.storeRun bs) ∧ (s.storeRun bs).i = s.i ∧ SameStack s (s.storeRun bs) ∧
    SameTimers s (s.storeRun bs) ∧ SameRecord s (s.storeRun bs) ∧ SameOutside s (s.storeRun bs) :=
  ⟨fun _ h => Memory.read_writeRun_outside bs s.mem _ (by omega), (s.setMem _).advancedBy2_advance, fun _ _ => rfl, rfl,
    ⟨rfl, rfl⟩, ⟨rfl, rfl⟩, ⟨rfl, rfl, rfl, rfl, rfl⟩, ⟨rfl, rfl, rfl, rfl⟩⟩

theorem State.read_storeRun (s : State) (bs : List Byte) {k : Nat} (h : k < bs.length) :
    (s.storeRun bs).mem.read (s.i.toNat + k) = bs[k] :=
  Memory.read_writeRun_inside bs s.mem s.i.toNat k h

/-! ### LD B -/

/-- Every decimal digit of a byte fits in a byte. -/
theorem bcdDigits_toNat (b : Byte) :
    ((bcdDigits b)[0]).toNat = b.toNat / 100 ∧ ((bcdDigits b)[1]).toNat = b.toNat / 10 % 10 ∧
    ((bcdDigits b)[2]).toNat = b.toNat % 10 := by
  have := b.isLt
  simp only [bcdDigits, List.getElem_cons_zero, List.getElem_cons_succ, BitVec.toNat_ofNat]
  omega

/-- Settles O45: the three digits are read back where they were written. -/
theorem bcdStoresThreeDigits : Obligations.BcdStoresThreeDigits := by
  intro s x h
  have stored : ∀ (k : Nat) (hk : k < 3),
      (s.storeRun (bcdDigits (s.getV x))).mem.read (s.i.toNat + k) = (bcdDigits (s.getV x))[k] :=
    fun _ hk => s.read_storeRun (bcdDigits (s.getV x)) hk
  obtain ⟨hundreds, tens, ones⟩ := bcdDigits_toNat (s.getV x)
  rw [← stored 0 (by decide), Nat.add_zero] at hundreds
  rw [← stored 1 (by decide)] at tens
  rw [← stored 2 (by decide)] at ones
  refine ⟨_, exec_ldB_of_inRange h, hundreds, tens, ones, ?_, s.storeRun_frame (bcdDigits (s.getV x))⟩
  rw [hundreds, tens, ones]
  omega

/-! ### The bulk store and the bulk load -/

theorem ofNat_zero_add_toNat (r : Nibble) : BitVec.ofNat 4 (0 + r.toNat) = r := by
  rw [Nat.zero_add, BitVec.ofNat_toNat, BitVec.setWidth_eq]

/-- `V[r]` is read back at I + r after the bulk store. -/
theorem State.read_storeRun_regRun (s : State) {x r : Nibble} (hr : r ≤ x) :
    (s.storeRun (s.regRun 0 (x.toNat + 1))).mem.read (s.i.toNat + r.toNat) = s.getV r := by
  have hlt : r.toNat < (s.regRun 0 (x.toNat + 1)).length := by
    rw [State.length_regRun]
    exact Nat.lt_succ_of_le hr
  rw [s.read_storeRun _ hlt, State.getElem_regRun, ofNat_zero_add_toNat]

/-- `V[r]` takes the byte at I + r in the bulk load. -/
theorem State.getV_loadRun_readRun (s : State) {x r : Nibble} (hr : r ≤ x) :
    (s.loadRun 0 (s.mem.readRun s.i.toNat (x.toNat + 1))).getV r = s.mem.read (s.i.toNat + r.toNat) := by
  have hx := x.isLt
  have hlt : r.toNat < (s.mem.readRun s.i.toNat (x.toNat + 1)).length := by
    rw [Memory.length_readRun]
    exact Nat.lt_succ_of_le hr
  have loaded := State.getV_loadRun_inside _ s 0 r.toNat hlt (by rw [Memory.length_readRun]; omega)
  rwa [ofNat_zero_add_toNat, Memory.getElem_readRun] at loaded

/-- Settles O46: each register is read back from its place. -/
theorem storeWritesRegistersFromI : Obligations.StoreWritesRegistersFromI := by
  intro s x h
  obtain ⟨hmem, hrest⟩ := s.storeRun_frame (s.regRun 0 (x.toNat + 1))
  rw [State.length_regRun] at hmem
  refine ⟨_, exec_storeRegs_of_inRange h, fun r hr => s.read_storeRun_regRun hr, fun a ha => hmem a ?_, hrest⟩
  omega

/-- Settles O47: each register takes the byte of its place, and those above `x` are outside the run. -/
theorem loadReadsRegistersFromI : Obligations.LoadReadsRegistersFromI := by
  intro s x h
  have hx := x.isLt
  have outside : SameRegs (· ≤ x) s (s.loadRun 0 (s.mem.readRun s.i.toNat (x.toNat + 1))) := by
    intro r hr
    have hlt : x.toNat < r.toNat := Nat.lt_of_not_le hr
    exact State.getV_loadRun_outside _ s 0 (by rw [Memory.length_readRun]; omega)
      (.inr (by rw [Memory.length_readRun]; omega))
  have loaded : ∀ r : Nibble, r ≤ x →
      (s.loadRun 0 (s.mem.readRun s.i.toNat (x.toNat + 1))).getV r = s.mem.read (s.i.toNat + r.toNat) :=
    fun r hr => s.getV_loadRun_readRun hr
  rw [State.loadRun_eq] at outside loaded
  refine ⟨_, exec_loadRegs_of_inRange h, ?_⟩
  rw [State.loadRun_eq]
  exact ⟨loaded, State.advance_pc_toNat _, outside, rfl, sameBeyondRegs_update s _ _ s.i⟩

/-- Settles O49: the word read back at the new PC is the one the registers hold, so the next fetch answers it. -/
theorem storedWordIsFetchedNext : Obligations.StoredWordIsFetchedNext := by
  intro s t x r r' i hrun hexec hrange hr' hle hpc hd
  have hle' : r'.toNat ≤ x.toNat := hle
  cases hexec.symm.trans (exec_storeRegs_of_inRange hrange)
  generalize ht : s.storeRun (s.regRun 0 (x.toNat + 1)) = t
  have htpc : t.pc.toNat = s.i.toNat + r.toNat := by
    rw [← ht, hpc]
    exact State.advance_pc_toNat _
  have hi : t.mem.read t.pc.toNat = s.getV r := by
    rw [htpc, ← ht]
    exact s.read_storeRun_regRun (x := x) (show r.toNat ≤ x.toNat by omega)
  have lo : t.mem.read (t.pc.toNat + 1) = s.getV r' := by
    rw [htpc, ← ht, Nat.add_assoc, ← hr']
    exact s.read_storeRun_regRun hle
  have hstatus : t.status = .run := by rw [← ht]; exact hrun
  have hagenda : t.agenda = s.agenda := by rw [← ht]; rfl
  rw [← hagenda]
  exact stepRunsTheDecodedInstruction t i hstatus (by omega) (by rw [hi, lo]; exact hd) rfl

end Sys2Proof.Machine
end

section
/-! SUPPORT. Drawing (43_host_bridge.md R165): what a sprite does to the display is said by the set of pixels it covers, and
sprites are put together out of single pixels. -/

namespace Sys2Proof.Machine

/-- From `before` to `after`, each a display and a collision flag, every pixel that `covers` holds of has been inverted, and
the flag has been set if one of these was set. -/
def Draws (covers : Nat → Nat → Bool) (before after : Display × Bool) : Prop :=
  (∀ r c : Nat, r < 32 → c < 64 → after.1.pixel r c = (before.1.pixel r c ^^ covers r c)) ∧
  (after.2 = true ↔ before.2 = true ∨ ∃ r c : Nat, r < 32 ∧ c < 64 ∧ before.1.pixel r c = true ∧ covers r c = true)

/-- Only pixels of the grid matter. -/
theorem Draws.congr {f g : Nat → Nat → Bool} {a b : Display × Bool} (h : Draws f a b)
    (hfg : ∀ r c : Nat, r < 32 → c < 64 → g r c = f r c) : Draws g a b := by
  obtain ⟨hpix, hflag⟩ := h
  refine ⟨fun r c hr hc => by rw [hfg r c hr hc, hpix r c hr hc], hflag.trans (or_congr_right ?_)⟩
  constructor
  · rintro ⟨r, c, hr, hc, hset, hcov⟩
    exact ⟨r, c, hr, hc, hset, (hfg r c hr hc).trans hcov⟩
  · rintro ⟨r, c, hr, hc, hset, hcov⟩
    exact ⟨r, c, hr, hc, hset, (hfg r c hr hc).symm.trans hcov⟩

theorem Draws.nothing (a : Display × Bool) : Draws (fun _ _ => false) a a := by
  simp [Draws]

/-- Two drawings of disjoint pixels, one after the other, are one drawing of both. -/
theorem Draws.trans {f g : Nat → Nat → Bool} {a b c : Display × Bool} (hab : Draws f a b) (hbc : Draws g b c)
    (disjoint : ∀ r c : Nat, r < 32 → c < 64 → f r c = true → g r c = false) :
    Draws (fun r c => f r c || g r c) a c := by
  obtain ⟨hpix, hflag⟩ := hab
  obtain ⟨hpix', hflag'⟩ := hbc
  refine ⟨fun r c hr hc => ?_, ?_⟩
  · rw [hpix' r c hr hc, hpix r c hr hc]
    change _ = (a.1.pixel r c ^^ (f r c || g r c))
    cases hf : f r c with
    | false => simp
    | true => rw [disjoint r c hr hc hf, Bool.xor_false, Bool.true_or]
  · rw [hflag', hflag, or_assoc]
    refine or_congr_right ⟨?_, ?_⟩
    · rintro (⟨r, c, hr, hc, hset, hf⟩ | ⟨r, c, hr, hc, hset, hg⟩)
      · exact ⟨r, c, hr, hc, hset, by simp [hf]⟩
      · have hf : f r c = false := Bool.eq_false_iff.mpr fun hf => by simp [disjoint r c hr hc hf] at hg
        rw [hpix r c hr hc, hf, Bool.xor_false] at hset
        exact ⟨r, c, hr, hc, hset, by simp [hg]⟩
    · rintro ⟨r, c, hr, hc, hset, hfg⟩
      cases hf : f r c with
      | true => exact .inl ⟨r, c, hr, hc, hset, hf⟩
      | false =>
        refine .inr ⟨r, c, hr, hc, ?_, by simpa [hf] using hfg⟩
        rw [hpix r c hr hc, hf, Bool.xor_false, hset]

theorem Display.pixel_mod (d : Display) (r c : Nat) : d.pixel (r % 32) (c % 64) = d.pixel r c := by
  simp only [Display.pixel, Nat.mod_mod]

/-- One flip draws one pixel. -/
theorem Draws.flip (a : Display × Bool) (y x : Nat) :
    Draws (fun r c => decide (r = y % 32) && decide (c = x % 64)) a (a.1.flip y x, a.2 || a.1.pixel y x) := by
  refine ⟨fun r c hr hc => ?_, ?_⟩
  · rw [Display.pixel_flip, Nat.mod_eq_of_lt hr, Nat.mod_eq_of_lt hc]
    by_cases hat : r = y % 32 ∧ c = x % 64
    · simp [hat]
    · change _ = (a.1.pixel r c ^^ (decide (r = y % 32) && decide (c = x % 64)))
      rw [if_neg hat, ← Bool.decide_and, decide_eq_false hat, Bool.xor_false]
  · rw [Bool.or_eq_true, ← Display.pixel_mod]
    refine or_congr_right ⟨fun hset => ?_, ?_⟩
    · exact ⟨_, _, Nat.mod_lt _ (by decide), Nat.mod_lt _ (by decide), hset, by simp⟩
    · rintro ⟨r, c, hr, hc, hset, hat⟩
      simp only [Bool.and_eq_true, decide_eq_true_eq] at hat
      rwa [← hat.1, ← hat.2]

/-! ### One row of a sprite -/

/-- The row of the sprite, drawn from row `y` on, that falls on row `r` of the grid. -/
def rowOffset (y r : Nat) : Nat := (r + 32 - y % 32) % 32

/-- The column of the sprite, drawn from column `x` on, that falls on column `c` of the grid. -/
def colOffset (x c : Nat) : Nat := (c + 64 - x % 64) % 64

/-- The pixels of the first `n` columns of a sprite row at row `y`, column `x` on. -/
def bitsCover (x y : Nat) (row : Byte) (n r c : Nat) : Bool :=
  decide (r = y % 32) && (decide (colOffset x c < n) && row.getLsbD (7 - colOffset x c))

theorem colOffset_eq_iff {x c n : Nat} (hc : c < 64) (hn : n < 64) : colOffset x c = n ↔ c = (x + n) % 64 := by
  unfold colOffset
  omega

/-- One more column of a sprite row is one more pixel, if its bit is set. -/
theorem bitsCover_succ (x y : Nat) (row : Byte) {n r c : Nat} (hn : n < 64) (hc : c < 64) :
    bitsCover x y row (n + 1) r c =
      (bitsCover x y row n r c ||
        (decide (r = y % 32) && decide (c = (x + n) % 64)) && row.getLsbD (7 - n)) := by
  have hcol := colOffset_eq_iff (x := x) hc hn
  by_cases hat : colOffset x c = n
  · simp [bitsCover, hat, ← hcol.mp hat]
  · have hlt : colOffset x c < n + 1 ↔ colOffset x c < n := by omega
    simp [bitsCover, hlt, mt hcol.mpr hat]

theorem drawBits_draws (x y : Nat) (row : Byte) (a : Display × Bool) :
    ∀ n : Nat, n ≤ 64 → Draws (bitsCover x y row n) a (Display.drawBits x y row n a)
  | 0, _ => (Draws.nothing a).congr fun r c _ _ => by simp [bitsCover]
  | n + 1, hn => by
    have ih := drawBits_draws x y row a n (by omega)
    unfold Display.drawBits
    split
    · next hbit =>
      refine (ih.trans (Draws.flip _ y (x + n)) fun r c _ hc hcov => ?_).congr fun r c _ hc => ?_
      · have hcol := colOffset_eq_iff (x := x) hc (show n < 64 by omega)
        simp only [bitsCover, Bool.and_eq_true, decide_eq_true_eq] at hcov
        simp [mt hcol.mpr (show colOffset x c ≠ n by omega)]
      · rw [bitsCover_succ x y row (by omega) hc, hbit, Bool.and_true]
    · next hbit =>
      refine ih.congr fun r c _ hc => ?_
      rw [bitsCover_succ x y row (by omega) hc, Bool.eq_false_iff.mpr hbit, Bool.and_false, Bool.or_false]

/-! ### The rows of a sprite -/

/-- The pixels of a sprite with these rows, drawn at column `x` and row `y`. -/
def rowsCover (x y : Nat) (rows : List Byte) (r c : Nat) : Bool :=
  decide (colOffset x c < 8) && (rows.getD (rowOffset y r) 0#8).getLsbD (7 - colOffset x c)

/-- The rows below the first, at most 31, do not come round to the row of the first. -/
theorem rowsCover_rest_at_first {x y r c : Nat} {rows : List Byte} (hl : rows.length < 32) (hat : r = y % 32) :
    rowsCover x (y + 1) rows r c = false := by
  have hlast : rowOffset (y + 1) r = 31 := by unfold rowOffset; omega
  rw [rowsCover, hlast, List.getD_eq_default _ _ (by omega)]
  simp

/-- A sprite is its first row and, one row further down, the rest. -/
theorem rowsCover_cons (x y : Nat) (row : Byte) {rows : List Byte} {r c : Nat} (hl : rows.length < 32) (hr : r < 32) :
    rowsCover x y (row :: rows) r c = (bitsCover x y row 8 r c || rowsCover x (y + 1) rows r c) := by
  by_cases hat : r = y % 32
  · have hfirst : rowOffset y r = 0 := by unfold rowOffset; omega
    rw [rowsCover_rest_at_first hl hat, Bool.or_false, rowsCover, bitsCover, hfirst, List.getD_cons_zero,
      decide_eq_true hat, Bool.true_and]
  · have hnext : rowOffset y r = rowOffset (y + 1) r + 1 := by unfold rowOffset; omega
    rw [rowsCover, rowsCover, bitsCover, hnext, List.getD_cons_succ, decide_eq_false hat, Bool.false_and, Bool.false_or]

theorem eq_row_of_bitsCover {x y : Nat} {row : Byte} {n r c : Nat} (h : bitsCover x y row n r c = true) : r = y % 32 := by
  simp only [bitsCover, Bool.and_eq_true, decide_eq_true_eq] at h
  exact h.1

theorem drawRows_draws (x : Nat) : ∀ (rows : List Byte) (y : Nat) (a : Display × Bool), rows.length ≤ 32 →
    Draws (rowsCover x y rows) a (Display.drawRows x y rows a)
  | [], y, a, _ => (Draws.nothing a).congr fun r c _ _ => by simp [rowsCover]
  | row :: rows, y, a, hl => by
    simp only [List.length_cons] at hl
    have first := drawBits_draws x y row a 8 (by decide)
    have rest := drawRows_draws x rows (y + 1) (Display.drawBits x y row 8 a) (by omega)
    exact (first.trans rest fun r c _ _ h => rowsCover_rest_at_first (by omega) (eq_row_of_bitsCover h)).congr
      fun r c hr _ => rowsCover_cons x y row (by omega) hr

/-- On the grid the rows read from memory cover what `spriteCovers` says. -/
theorem spriteCovers_eq_rowsCover (m : Memory) (base n x y r c : Nat) :
    spriteCovers m base n x y r c = rowsCover x y (m.readRun base n) r c := by
  change (decide (rowOffset y r < n) && decide (colOffset x c < 8) &&
    (m.read (base + rowOffset y r)).getLsbD (7 - colOffset x c)) = _
  unfold rowsCover
  by_cases h : rowOffset y r < n
  · have hlt : rowOffset y r < (m.readRun base n).length := by rwa [Memory.length_readRun]
    rw [List.getD_eq_getElem _ _ hlt, Memory.getElem_readRun, decide_eq_true h, Bool.true_and]
  · rw [List.getD_eq_default _ _ (by rw [Memory.length_readRun]; omega), decide_eq_false h]
    simp

/-! ### DRW -/

/-- `draw_sprite` draws the sprite from a clear flag. -/
theorem drawSprite_draws (d : Display) (m : Memory) (base : Nat) (x y : Byte) {n : Nat} (hn : n ≤ 32) :
    Draws (spriteCovers m base n x.toNat y.toNat) (d, false) (d.drawSprite x y (m.readRun base n)) :=
  (drawRows_draws x.toNat (m.readRun base n) y.toNat (d, false) (by rwa [Memory.length_readRun])).congr
    fun _ _ _ _ => spriteCovers_eq_rowsCover ..

/-- The pixels that `DRW Vx, Vy, n` covers from `s`. -/
def State.drwCovers (s : State) (x y n : Nibble) (r c : Nat) : Bool :=
  spriteCovers s.mem s.i.toNat n.toNat (s.getV x).toNat (s.getV y).toNat r c

/-- The state after `DRW Vx, Vy, n` when its range is in memory. -/
def State.afterDrw (s : State) (x y n : Nibble) : State := s.drawn x y (s.mem.readRun s.i.toNat n.toNat)

theorem exec_drw_of_inRange {s : State} {x y n : Nibble} (h : n = 0#4 ∨ s.i.toNat + n.toNat ≤ 4096) :
    exec (.drw x y n) s = .next (s.afterDrw x y n) :=
  guardRange_ok (h.imp_left fun hn => by rw [hn]; rfl)

/-- DRW draws its sprite, and VF holds the flag. -/
theorem State.afterDrw_draws (s : State) (x y n : Nibble) :
    ∃ flag, Draws (s.drwCovers x y n) (s.fb, false) ((s.afterDrw x y n).fb, flag) ∧
      (s.afterDrw x y n).getV 15#4 = flagByte flag :=
  ⟨_, drawSprite_draws s.fb s.mem s.i.toNat (s.getV x) (s.getV y) (by have := n.isLt; omega),
    State.getV_setV_same (s.setFb _) 15#4 _⟩

theorem State.getV_afterDrw {s : State} {x y n r : Nibble} (h : r ≠ 15#4) : (s.afterDrw x y n).getV r = s.getV r := by
  rw [State.afterDrw, State.drawn, State.getV_advance, State.getV_setV_ne _ _ h, State.getV_setFb]

/-- A second draw of the same sprite covers the same pixels, its coordinates not being in VF. -/
theorem State.drwCovers_afterDrw {s : State} {x y n : Nibble} (hx : x ≠ 15#4) (hy : y ≠ 15#4) :
    (s.afterDrw x y n).drwCovers x y n = s.drwCovers x y n := by
  funext r c
  rw [State.drwCovers, State.getV_afterDrw hx, State.getV_afterDrw hy]
  rfl

/-- The grid is all there is of a display. -/
theorem Display.ext_pixel {d d' : Display} (h : ∀ r c : Nat, r < 32 → c < 64 → d.pixel r c = d'.pixel r c) : d = d' := by
  refine Vector.ext fun r hr => Vector.ext fun c hc => ?_
  simpa only [Display.pixel, Nat.mod_eq_of_lt hr, Nat.mod_eq_of_lt hc] using h r c hr hc

theorem flagByte_eq_one_iff {f : Bool} : flagByte f = 1#8 ↔ f = true := by
  cases f <;> decide

/-- Settles O51: the display is the sprite's drawing, VF its flag, and nothing else but PC is written. -/
theorem drwXorsTheSprite : Obligations.DrwXorsTheSprite := by
  intro s x y n hrange
  obtain ⟨flag, ⟨hpix, hflag⟩, hvf⟩ := s.afterDrw_draws x y n
  refine ⟨_, exec_drw_of_inRange hrange, hpix, ?_, State.advancedBy2_advance _, fun _ hr => State.getV_afterDrw hr, rfl,
    fun _ _ => rfl, ⟨rfl, rfl⟩, ⟨rfl, rfl⟩, ⟨rfl, rfl, rfl, rfl, rfl⟩, rfl, rfl, rfl⟩
  simp only [Bool.false_eq_true, false_or] at hflag
  rw [hvf]
  cases flag with
  | true => exact .inl ⟨hflag.mp rfl, rfl⟩
  | false =>
    refine .inr ⟨fun r c hr hc hset => Bool.eq_false_iff.mpr fun hcov => ?_, rfl⟩
    cases hflag.mpr ⟨r, c, hr, hc, hset, hcov⟩

/-- Settles O52: the same pixels are inverted twice, and the second draw meets the set ones among them, which at first were
unset. -/
theorem drawingTwiceRestoresTheDisplay : Obligations.DrawingTwiceRestoresTheDisplay := by
  intro s t u x y n hx hy hrange ht hu
  cases ht.symm.trans (exec_drw_of_inRange hrange)
  cases hu.symm.trans (exec_drw_of_inRange (s := s.afterDrw x y n) hrange)
  obtain ⟨_, ⟨hpix, -⟩, -⟩ := s.afterDrw_draws x y n
  obtain ⟨flag, ⟨hpix', hflag⟩, hvf⟩ := (s.afterDrw x y n).afterDrw_draws x y n
  rw [State.drwCovers_afterDrw hx hy] at hpix' hflag
  constructor
  · refine Display.ext_pixel fun r c hr hc => ?_
    rw [hpix' r c hr hc, hpix r c hr hc, Bool.xor_assoc, Bool.xor_self, Bool.xor_false]
  · rw [hvf, flagByte_eq_one_iff, hflag]
    simp only [Bool.false_eq_true, false_or]
    refine exists₂_congr fun r c => and_congr_right fun hr => and_congr_right fun hc => and_congr_left fun hcov => ?_
    have hcov' : s.drwCovers x y n r c = true := hcov
    rw [hpix r c hr hc, hcov', Bool.xor_true, Bool.not_eq_true']

end Sys2Proof.Machine
end
